-- ==== Sys2Proof/Word.lean ====
section
/-! DEFINITION. The word types of the engine: every datum that crosses the transport is a byte, and
the only 16-bit quantity is a CRC (20_memory R71). -/

namespace Sys2Proof

/-- One byte: a register value, a register address, a frame byte. -/
abbrev Byte := BitVec 8

/-- A CRC-16 value. -/
abbrev Word16 := BitVec 16

end Sys2Proof
end

