-- ==== Sys2Proof/Config.lean ====
section
/-! DEFINITION. The constants the spec gives (00_scope R7), the configuration record of the
parameters it leaves open (R8, R9, R302), and the free values: constants with no body. -/

namespace Sys2Proof

/-- PICCType (10_state R31): the closed enumeration of eleven tag types. -/
inductive PiccType where
  | unknown
  | iso14443_4
  | iso18092
  | mifareClassicMini
  | mifareClassic1K
  | mifareClassic4K
  | mifareClassic2K
  | mifareUltralight
  | mifarePlus
  | mifareDESFire
  | notCompleted
  deriving DecidableEq, Repr

/-- Polarity of the byte-order mode bit (41_crc R148, `CRC_ORDER`). -/
inductive CrcOrder where
  /-- Bit clear: CrcResultH holds the high byte; bit set: swapped. The spec's choice. -/
  | highFirstWhenClear
  /-- The other polarity, the only alternative. -/
  | highFirstWhenSet
  deriving DecidableEq, Repr

/-- The function the chip's CRC unit computes, as the configuration names it (00_scope R8, 41_crc
R150): the recommended CRC_A, or another one, known by a number only. -/
inductive CrcFunction where
  | crcA
  | other (k : Nat)
  deriving DecidableEq, Repr

/-- Whether a bulk transfer of zero bytes reaches the transport (00_scope R8, 40_transport R128). -/
inductive ZeroLenBulk where
  | elide
  | issue
  deriving DecidableEq, Repr

/-! ## Constants of 00_scope R7 -/

abbrev aCommand : Byte := 0x01#8
abbrev aComIrq : Byte := 0x04#8
abbrev aDivIrq : Byte := 0x05#8
abbrev aError : Byte := 0x06#8
abbrev aStatus2 : Byte := 0x08#8
abbrev aFifoData : Byte := 0x09#8
abbrev aFifoLevel : Byte := 0x0A#8
abbrev aControl : Byte := 0x0C#8
abbrev aBitFraming : Byte := 0x0D#8
abbrev aColl : Byte := 0x0E#8
abbrev aMode : Byte := 0x11#8
abbrev aCrcResultH : Byte := 0x21#8
abbrev aCrcResultL : Byte := 0x22#8

/-- The thirteen register addresses the block touches (10_state R32, 20_memory R51). -/
abbrev blockAddresses : List Byte :=
  [aCommand, aComIrq, aDivIrq, aError, aStatus2, aFifoData, aFifoLevel, aControl, aBitFraming,
    aColl, aMode, aCrcResultH, aCrcResultL]

abbrev piccReqa : Byte := 0x26#8
abbrev piccWupa : Byte := 0x52#8
abbrev piccHlta : Byte := 0x50#8
abbrev nvbSelect : Byte := 0x70#8
abbrev cascadeTag : Byte := 0x88#8
abbrev piccAuthA : Byte := 0x60#8
abbrev piccAuthB : Byte := 0x61#8
abbrev piccRead : Byte := 0x30#8
abbrev piccWrite : Byte := 0xA0#8
abbrev piccWriteUl : Byte := 0xA2#8
abbrev piccAck : Byte := 0x0A#8
abbrev sakNotComplete : Byte := 0x04#8

/-- `MAX_LEVELS` (00_scope R7): cascade levels. -/
abbrev maxLevels : Nat := 3

/-- The configuration record (00_scope R8, R9; 41_crc R148; 43_select R221), fixed at construction
(70_reset R302). The default of each field is the spec's; those of R8 are marked there
[from general knowledge, not in source] (PRESUMED, log 6). -/
structure Config where
  cmdIdle : Byte := 0x00#8
  cmdCalcCrc : Byte := 0x03#8
  cmdTransceive : Byte := 0x0C#8
  cmdMfAuthent : Byte := 0x0E#8
  fifoFlush : Byte := 0x80#8
  fifoLevelMask : Byte := 0x7F#8
  divIrqCrc : Byte := 0x04#8
  comIrqClear : Byte := 0x7F#8
  irqRx : Byte := 0x20#8
  irqIdle : Byte := 0x10#8
  irqTimer : Byte := 0x01#8
  errWrite : Byte := 0x80#8
  errOverheat : Byte := 0x40#8
  errOverflow : Byte := 0x10#8
  errCollision : Byte := 0x08#8
  errCrc : Byte := 0x04#8
  errParity : Byte := 0x02#8
  errProtocol : Byte := 0x01#8
  bfStartSend : Byte := 0x80#8
  bfRxAlignShift : Nat := 4
  bfTxLastMask : Byte := 0x07#8
  ctrlRxLastMask : Byte := 0x07#8
  collPosMask : Byte := 0x1F#8
  modeMsbFirst : Byte := 0x80#8
  st2Crypto1On : Byte := 0x08#8
  selCl1 : Byte := 0x93#8
  selCl2 : Byte := 0x95#8
  selCl3 : Byte := 0x97#8
  hltaArg : Byte := 0x00#8
  /-- Informative (R8): never checked by the block. -/
  fifoDepth : Nat := 64
  /-- OPEN in the spec (R8); no rule depends on it (R321). -/
  pollInterval : Nat := 0
  zeroLenBulk : ZeroLenBulk := .elide
  /-- `crc16`: OPEN in the spec, CRC_A recommended (R8, 41_crc R150); `crc16Of` is the function. -/
  crc16 : CrcFunction := .crcA
  crcOrder : CrcOrder := .highFirstWhenClear
  tExecMs : Nat := 50
  tCrcMs : Nat := 100
  /-- A deadline like the two before it (60_exceptions R286), used by no operation of the spec. -/
  tResetMs : Nat := 1000
  maxProbes : Nat := 32
  /-- `SAK_TABLE` (R221): the source gives the first entry, the others are PRESUMED. -/
  sakTable : List (Byte × PiccType) :=
    [(0x08#8, .mifareClassic1K), (0x09#8, .mifareClassicMini), (0x18#8, .mifareClassic4K),
      (0x19#8, .mifareClassic2K), (0x00#8, .mifareUltralight), (0x10#8, .mifarePlus),
      (0x11#8, .mifarePlus)]
  /-- Which identity check the chip has (70_reset R302, 93 U31); no operation of the spec calls it. -/
  identityCheck : Nat := 0
  deriving DecidableEq, Repr

/-- The record with every parameter at the spec's default. -/
def Config.default : Config := { }

/-- `SEL_CL[level]` (30_encoding R99). -/
def Config.selCl (c : Config) (level : Nat) : Byte :=
  if level = 0 then c.selCl1 else if level = 1 then c.selCl2 else c.selCl3

/-! ## Free values: constants with no body (log 1, log 2, log 18, log 21, log 27) -/

/-- The `k`-th byte the environment supplies when nothing has been laid down for it (20_memory R58). -/
opaque Config.freeByte : Nat → Byte

/-- Whether the transaction numbered `k` returns, when nothing has been laid down for it; `false`
is `TransportError` (60_exceptions R276). -/
opaque Config.freeReturns : Nat → Bool

/-- How far the clock moves before the sample numbered `k`, when nothing has been laid down for it
(60_exceptions R285: nothing bounds how far). -/
opaque Config.freeTick : Nat → Nat

/-- A CRC function other than CRC_A, by its number (41_crc R150). -/
opaque Config.otherCrc16 : Nat → List Byte → Word16

/-- The chip identity check, by its number (70_reset R302, 93 U31). The spec names the function and does
not say what it takes or returns: that it takes a byte and answers yes or no is the model's choice
(DESIGN CHOICE, log 18). -/
opaque Config.chipIdentityCheck : Nat → Byte → Bool

/-- What stands at an index of a UID record that has no such byte (10_state R29 gives a record ten). -/
opaque Config.missingByte : List Byte → Nat → Byte

/-- Whether `verify_crc` accepts an array of fewer than two bytes, which has no CRC to compare, when
the CRC unit gave this value (41_crc R152 speaks of `n >= 2`). -/
opaque Config.shortVerify : List Byte → Word16 → Bool

end Sys2Proof
end

