-- ==== Sys2Proof/Syntax.lean ====
section
/-! DEFINITION. The engine's instructions, one constructor for each row of spec/opcode_table.json,
and the data they carry: UID records, argument ports, transactions, results. -/

namespace Sys2Proof

/-- UID record (10_state R29): `bytes` has ten entries, of which the first `size` are valid. -/
structure Uid where
  size : Nat := 0
  bytes : List Byte := [0, 0, 0, 0, 0, 0, 0, 0, 0, 0]
  sak : Byte := 0
  piccType : PiccType := .unknown
  deriving DecidableEq, Repr

/-- ExecutionError (00_scope R12, 60_exceptions R270): the closed set of seven. -/
inductive ExecError where
  | timeout
  | collision
  | invalidArgument
  | crcMismatch
  | nack
  | transportError
  | protocolError
  deriving DecidableEq, Repr

/-- What an operation returns with `Ok` (30_encoding R81, column "result on Ok"). -/
inductive Value where
  | nothing
  /-- a byte read (`RD`) -/
  | byte (b : Byte)
  /-- a byte array (`RDB`, `append_crc`) -/
  | bytes (bs : List Byte)
  /-- the `u16` of `calculate_crc` -/
  | crc (w : Word16)
  /-- `recv_len`, the receive buffer's contents, `rx_last_bits` -/
  | received (recvLen : Nat) (recv : List Byte) (rxLastBits : Nat)
  /-- the UID record of `select` and `activate` -/
  | uid (u : Uid)
  deriving DecidableEq, Repr

/-- The result of an operation (00_scope R12): a value or exactly one error. -/
inductive Res where
  | ok (v : Value)
  | err (e : ExecError)
  deriving DecidableEq, Repr

/-- The number of a result on the result port (60_exceptions R270). -/
def Res.code : Res → Nat
  | .ok _ => 0
  | .err .timeout => 1
  | .err .collision => 2
  | .err .invalidArgument => 3
  | .err .crcMismatch => 4
  | .err .nack => 5
  | .err .transportError => 6
  | .err .protocolError => 7

/-- One register transaction (30_encoding R84): a kind, an address, data. -/
inductive Tx where
  | rd (addr : Byte)
  | rdb (addr : Byte) (n : Nat)
  | wr (addr : Byte) (v : Byte)
  | wrb (addr : Byte) (bytes : List Byte)
  deriving DecidableEq, Repr

/-- The address of a transaction: a bulk transfer has one address too (20_memory R51). -/
def Tx.addr : Tx → Byte
  | .rd a => a
  | .rdb a _ => a
  | .wr a _ => a
  | .wrb a _ => a

/-- How many bytes the environment supplies to a transaction. -/
def Tx.readLen : Tx → Nat
  | .rd _ => 1
  | .rdb _ n => n
  | .wr _ _ => 0
  | .wrb _ _ => 0

/-- The typed argument ports of the command port (30_encoding R81), which are also the latched
registers `ARG.*` (10_state R21). `recv` and `out` are arrays whose length is the capacity. -/
structure Args where
  buffer : List Byte := []
  cmd : Byte := 0
  waitFlags : Byte := 0
  send : List Byte := []
  recv : Option (List Byte) := none
  txLastBits : Nat := 0
  rxAlign : Nat := 0
  checkCrc : Bool := false
  uidHint : Option Uid := none
  specific : Bool := false
  uid : Uid := { }
  key : List Byte := []
  block : Byte := 0
  addr : Byte := 0
  out : List Byte := []
  page : Byte := 0
  data : List Byte := []
  payload : List Byte := []
  ignoreTimeout : Bool := false
  deriving DecidableEq, Repr

/-- The instructions: the 40 rows of spec/opcode_table.json in the table's order. -/
inductive Instr where
  -- HOSTOP (30_encoding R81)
  | calculateCrc (buffer : List Byte)
  | execute (cmd waitFlags : Byte) (send : List Byte) (recv : Option (List Byte))
      (txLastBits rxAlign : Nat) (checkCrc : Bool)
  | transceive (send : List Byte) (recv : Option (List Byte)) (txLastBits rxAlign : Nat)
      (checkCrc : Bool)
  | activate (uidHint : Option Uid) (specific : Bool)
  | select (uidHint : Option Uid) (specific : Bool)
  | halt
  | authenticateA (uid : Uid) (key : List Byte) (block : Byte)
  | authenticateB (uid : Uid) (key : List Byte) (block : Byte)
  | stopSession
  | readBlock (addr : Byte) (out : List Byte)
  | writeBlock (addr : Byte) (data : List Byte)
  | writePage (page : Byte) (data : List Byte)
  | mifareTransceive (payload : List Byte) (ignoreTimeout : Bool)
  -- REGTX (30_encoding R84)
  | rd (addr : Byte)
  | rdb (addr : Byte) (n : Nat)
  | wr (addr : Byte) (v : Byte)
  | wrb (addr : Byte) (bytes : List Byte)
  -- PSEUDO (30_encoding R112)
  | setbits (addr : Byte) (mask : Byte)
  | clrbits (addr : Byte) (mask : Byte)
  | poll (addr : Byte) (doneMask failMask : Byte) (deadline : Nat)
  | appendCrc (frame : List Byte)
  | verifyCrc (r : List Byte)
  -- PCDCMD (30_encoding R86)
  | cmdIdle
  | cmdCalcCrc
  | cmdTransceive
  | cmdMfAuthent
  -- FRAME (30_encoding R92 to R102)
  | reqa
  | wupa
  | anticollCl1 (kb : Nat) (known : List Byte)
  | anticollCl2 (kb : Nat) (known : List Byte)
  | anticollCl3 (kb : Nat) (known : List Byte)
  | selectCl1 (b0 b1 b2 b3 bcc : Byte)
  | selectCl2 (b0 b1 b2 b3 bcc : Byte)
  | selectCl3 (b0 b1 b2 b3 bcc : Byte)
  | hlta
  | mfAuthKeyA (block : Byte) (key uidTail : List Byte)
  | mfAuthKeyB (block : Byte) (key uidTail : List Byte)
  | mfRead (addr : Byte)
  | mfWrite (addr : Byte) (data : List Byte)
  | mfWriteUl (page : Byte) (data : List Byte)
  deriving DecidableEq, Repr

/-- The five formats of the opcode table (30_encoding R80, R112). -/
inductive Format where
  | hostop
  | regtx
  | pseudo
  | pcdcmd
  | frame
  deriving DecidableEq, Repr

/-- The format of each row. -/
def Instr.format : Instr → Format
  | .calculateCrc _ | .execute .. | .transceive .. | .activate .. | .select .. | .halt
  | .authenticateA .. | .authenticateB .. | .stopSession | .readBlock .. | .writeBlock ..
  | .writePage .. | .mifareTransceive .. => .hostop
  | .rd _ | .rdb .. | .wr .. | .wrb .. => .regtx
  | .setbits .. | .clrbits .. | .poll .. | .appendCrc _ | .verifyCrc _ => .pseudo
  | .cmdIdle | .cmdCalcCrc | .cmdTransceive | .cmdMfAuthent => .pcdcmd
  | .reqa | .wupa | .anticollCl1 .. | .anticollCl2 .. | .anticollCl3 .. | .selectCl1 ..
  | .selectCl2 .. | .selectCl3 .. | .hlta | .mfAuthKeyA .. | .mfAuthKeyB .. | .mfRead _
  | .mfWrite .. | .mfWriteUl .. => .frame

/-- The pseudo-operations, which have no encoding of their own (30_encoding R112). -/
inductive Pseudo where
  | setbits (addr : Byte) (mask : Byte)
  | clrbits (addr : Byte) (mask : Byte)
  | poll (addr : Byte) (doneMask failMask : Byte) (deadline : Nat)
  | appendCrc (frame : List Byte)
  | verifyCrc (r : List Byte)
  deriving DecidableEq, Repr

/-- What is laid on the command port, in the format of each layer. A host offers `hostop` only
(30_encoding R81); the other four let a row of the inner layers be run on its own (DESIGN CHOICE,
log 8). A `frame` is the payload loaded before the block appends a CRC, if it appends one, and the
count of valid bits of its last byte (R92, R94; log 10). -/
inductive Offer where
  | hostop (code : Byte) (ports : Args)
  | regtx (t : Tx)
  | pseudo (p : Pseudo)
  | pcdcmd (value : Byte)
  | frame (bytes : List Byte) (txLastBits : Nat)
  deriving DecidableEq, Repr

/-- The format of an offer. -/
def Offer.format : Offer → Format
  | .hostop .. => .hostop
  | .regtx _ => .regtx
  | .pseudo _ => .pseudo
  | .pcdcmd _ => .pcdcmd
  | .frame .. => .frame

end Sys2Proof
end

