-- ==== Sys2Proof/WellFormed.lean ====
section
/-! DEFINITION. Which instructions are the decoding of some offer (the shapes of the frames of
30_encoding), and which configurations are lawful (92 D11). -/

namespace Sys2Proof

/-- The known bits of an anti-collision frame: at most 32, in `ceil(kb/8)` bytes (30_encoding R95). -/
def knownWf (kb : Nat) (known : List Byte) : Bool := kb ≤ 32 && known.length == (kb + 7) / 8

/-- The instruction is one the decoder can give: the fields of a frame have the lengths of its layout
(30_encoding R95, R101, R102). Every operand of the other rows is admitted (log 11, log 27). -/
def Instr.wf : Instr → Bool
  | .calculateCrc _ => true
  | .execute .. => true
  | .transceive .. => true
  | .activate _ _ => true
  | .select _ _ => true
  | .halt => true
  | .authenticateA _ _ _ => true
  | .authenticateB _ _ _ => true
  | .stopSession => true
  | .readBlock _ _ => true
  | .writeBlock _ _ => true
  | .writePage _ _ => true
  | .mifareTransceive _ _ => true
  | .rd _ => true
  | .rdb _ _ => true
  | .wr _ _ => true
  | .wrb _ _ => true
  | .setbits _ _ => true
  | .clrbits _ _ => true
  | .poll _ _ _ _ => true
  | .appendCrc _ => true
  | .verifyCrc _ => true
  | .cmdIdle => true
  | .cmdCalcCrc => true
  | .cmdTransceive => true
  | .cmdMfAuthent => true
  | .reqa => true
  | .wupa => true
  | .anticollCl1 kb known => knownWf kb known
  | .anticollCl2 kb known => knownWf kb known
  | .anticollCl3 kb known => knownWf kb known
  | .selectCl1 _ _ _ _ _ => true
  | .selectCl2 _ _ _ _ _ => true
  | .selectCl3 _ _ _ _ _ => true
  | .hlta => true
  | .mfAuthKeyA _ key tail => key.length == 6 && tail.length == 4
  | .mfAuthKeyB _ key tail => key.length == 6 && tail.length == 4
  | .mfRead _ => true
  | .mfWrite _ data => data.length == 16
  | .mfWriteUl _ data => data.length == 4

/-- The four chip commands are told apart by their value (30_encoding R86). -/
abbrev Config.CommandsDistinct (c : Config) : Prop :=
  [c.cmdIdle, c.cmdCalcCrc, c.cmdTransceive, c.cmdMfAuthent].Nodup

/-- The tag commands are told apart by their first byte (30_encoding R92). -/
abbrev Config.FramesDistinct (c : Config) : Prop :=
  [piccReqa, piccWupa, c.selCl1, c.selCl2, c.selCl3, piccHlta, piccAuthA, piccAuthB, piccRead,
    piccWrite, piccWriteUl].Nodup

/-- The widths of the fields the block extracts (10_state R21, R39, R40, R42) and a probe bound that
lets the first probe be sent (43_select R211). -/
abbrev Config.FieldsFit (c : Config) : Prop :=
  c.fifoLevelMask.toNat ≤ 127 ∧ c.ctrlRxLastMask.toNat ≤ 7 ∧ c.collPosMask.toNat ≤ 31 ∧
    1 ≤ c.maxProbes

/-- `m` is a single bit. -/
abbrev SingleBit (m : Byte) : Prop := m ≠ 0 ∧ m &&& (m - 1) = 0

/-- The constraints a model may assume of the masks (92 D11): the error masks and the completion
flags are single distinct bits, and the start-send bit is disjoint from the two framing fields. -/
abbrev Config.MasksLawful (c : Config) : Prop :=
  (∀ m ∈ [c.errWrite, c.errOverheat, c.errOverflow, c.errCollision, c.errCrc, c.errParity,
      c.errProtocol], SingleBit m) ∧
    [c.errWrite, c.errOverheat, c.errOverflow, c.errCollision, c.errCrc, c.errParity,
      c.errProtocol].Nodup ∧
    (∀ m ∈ [c.irqRx, c.irqIdle, c.irqTimer], SingleBit m) ∧
    [c.irqRx, c.irqIdle, c.irqTimer].Nodup ∧
    c.bfStartSend &&& (c.bfTxLastMask ||| (0x07#8 <<< c.bfRxAlignShift)) = 0

/-- A configuration the spec's rules are written for. -/
abbrev Config.Lawful (c : Config) : Prop :=
  c.CommandsDistinct ∧ c.FramesDistinct ∧ c.FieldsFit ∧ c.MasksLawful

end Sys2Proof
end

