-- ==== Sys2Proof/Decode.lean ====
section
/-! DEFINITION. The decoder of what is laid on the command port, total, rejecting by name, and the
encoder written from the same tables: host operation codes (30_encoding R81, R82), chip command
values (R86), tag frames (R92 to R102). -/

namespace Sys2Proof

/-! ## Anti-collision NVB -/

/-- NVB of a probe with `kb` known bits: whole valid bytes of the frame in the high nibble, further
bits in the low nibble (30_encoding R96). -/
def nvbOf (kb : Nat) : Byte :=
  (BitVec.ofNat 8 (2 + kb / 8) <<< 4) ||| BitVec.ofNat 8 (kb % 8)

/-- The known bits an NVB stands for, where it is one of the values of 30_encoding R96. -/
def kbOfNvb (nvb : Byte) : Option Nat :=
  let whole := (nvb >>> 4).toNat
  let extra := (nvb &&& 0x0F#8).toNat
  if 2 ≤ whole ∧ extra ≤ 7 ∧ 8 * (whole - 2) + extra ≤ 32 then some (8 * (whole - 2) + extra)
  else none

/-! ## Decoding -/

/-- Why a word is rejected. -/
inductive Reject where
  /-- a host operation code outside 30_encoding R81 (R83) -/
  | hostCode (code : Byte)
  /-- a chip command value other than the four of R86 (R109) -/
  | chipCommand (value : Byte)
  /-- a frame whose first byte is no tag command of the table, or an empty frame (R109) -/
  | tagCommand (bytes : List Byte)
  /-- a frame of a tag command, but not of the length, NVB or bit count of its rule (R93 to R102) -/
  | frameShape (bytes : List Byte) (txLastBits : Nat)
  deriving DecidableEq, Repr

/-- What the decoder answers. -/
inductive Decoded where
  | instr (i : Instr)
  | reject (r : Reject)
  deriving DecidableEq, Repr

/-- Host operations (30_encoding R81): the code selects which argument ports are read. -/
def decodeHost (code : Byte) (p : Args) : Decoded :=
  if code = 0x01#8 then .instr (.calculateCrc p.buffer)
  else if code = 0x02#8 then
    .instr (.execute p.cmd p.waitFlags p.send p.recv p.txLastBits p.rxAlign p.checkCrc)
  else if code = 0x03#8 then
    .instr (.transceive p.send p.recv p.txLastBits p.rxAlign p.checkCrc)
  else if code = 0x10#8 then .instr (.activate p.uidHint p.specific)
  else if code = 0x11#8 then .instr (.select p.uidHint p.specific)
  else if code = 0x12#8 then .instr .halt
  else if code = 0x20#8 then .instr (.authenticateA p.uid p.key p.block)
  else if code = 0x21#8 then .instr (.authenticateB p.uid p.key p.block)
  else if code = 0x22#8 then .instr .stopSession
  else if code = 0x30#8 then .instr (.readBlock p.addr p.out)
  else if code = 0x31#8 then .instr (.writeBlock p.addr p.data)
  else if code = 0x32#8 then .instr (.writePage p.page p.data)
  else if code = 0x33#8 then .instr (.mifareTransceive p.payload p.ignoreTimeout)
  else .reject (.hostCode code)

/-- Register transactions (30_encoding R84). -/
def decodeTx : Tx → Instr
  | .rd a => .rd a
  | .rdb a n => .rdb a n
  | .wr a v => .wr a v
  | .wrb a bs => .wrb a bs

/-- Pseudo-operations (30_encoding R112). -/
def decodePseudo : Pseudo → Instr
  | .setbits a m => .setbits a m
  | .clrbits a m => .clrbits a m
  | .poll a d f t => .poll a d f t
  | .appendCrc f => .appendCrc f
  | .verifyCrc r => .verifyCrc r

/-- Chip commands (30_encoding R86): the whole byte is the command value (R85). -/
def decodeCommand (c : Config) (v : Byte) : Decoded :=
  if v = c.cmdIdle then .instr .cmdIdle
  else if v = c.cmdCalcCrc then .instr .cmdCalcCrc
  else if v = c.cmdTransceive then .instr .cmdTransceive
  else if v = c.cmdMfAuthent then .instr .cmdMfAuthent
  else .reject (.chipCommand v)

/-- The frames of one cascade level, told apart by NVB (30_encoding R95 to R97, R112). -/
def decodeLevel (probe : Nat → List Byte → Instr)
    (sel : Byte → Byte → Byte → Byte → Byte → Instr) (bytes rest : List Byte) (tx : Nat) :
    Decoded :=
  match rest with
  | [] => .reject (.frameShape bytes tx)
  | nvb :: more =>
    if nvb = nvbSelect then
      match more with
      | [b0, b1, b2, b3, bcc] =>
        if tx = 0 then .instr (sel b0 b1 b2 b3 bcc) else .reject (.frameShape bytes tx)
      | _ => .reject (.frameShape bytes tx)
    else
      match kbOfNvb nvb with
      | some kb =>
        if more.length = (kb + 7) / 8 ∧ tx = kb % 8 then .instr (probe kb more)
        else .reject (.frameShape bytes tx)
      | none => .reject (.frameShape bytes tx)

/-- Authentication frames after the command byte: block, six key bytes, four UID bytes
(30_encoding R101). -/
def decodeAuth (auth : Byte → List Byte → List Byte → Instr) (bytes rest : List Byte) (tx : Nat) :
    Decoded :=
  match rest with
  | block :: more =>
    if more.length = 10 ∧ tx = 0 then .instr (auth block (more.take 6) (more.drop 6))
    else .reject (.frameShape bytes tx)
  | [] => .reject (.frameShape bytes tx)

/-- A tag command with an address and `n` data bytes (30_encoding R102). -/
def decodeData (make : Byte → List Byte → Instr) (n : Nat) (bytes rest : List Byte) (tx : Nat) :
    Decoded :=
  match rest with
  | addr :: more =>
    if more.length = n ∧ tx = 0 then .instr (make addr more) else .reject (.frameShape bytes tx)
  | [] => .reject (.frameShape bytes tx)

/-- Tag frames (30_encoding R92 to R102), by their first byte. -/
def decodeFrame (c : Config) (bytes : List Byte) (tx : Nat) : Decoded :=
  match bytes with
  | [] => .reject (.tagCommand bytes)
  | b :: rest =>
    if b = piccReqa then
      if rest = [] ∧ tx = 7 then .instr .reqa else .reject (.frameShape bytes tx)
    else if b = piccWupa then
      if rest = [] ∧ tx = 7 then .instr .wupa else .reject (.frameShape bytes tx)
    else if b = c.selCl1 then decodeLevel .anticollCl1 .selectCl1 bytes rest tx
    else if b = c.selCl2 then decodeLevel .anticollCl2 .selectCl2 bytes rest tx
    else if b = c.selCl3 then decodeLevel .anticollCl3 .selectCl3 bytes rest tx
    else if b = piccHlta then
      if rest = [c.hltaArg] ∧ tx = 0 then .instr .hlta else .reject (.frameShape bytes tx)
    else if b = piccAuthA then decodeAuth .mfAuthKeyA bytes rest tx
    else if b = piccAuthB then decodeAuth .mfAuthKeyB bytes rest tx
    else if b = piccRead then decodeData (fun a _ => .mfRead a) 0 bytes rest tx
    else if b = piccWrite then decodeData .mfWrite 16 bytes rest tx
    else if b = piccWriteUl then decodeData .mfWriteUl 4 bytes rest tx
    else .reject (.tagCommand bytes)

/-- The instruction an offer stands for. -/
def decode (c : Config) : Offer → Decoded
  | .hostop code ports => decodeHost code ports
  | .regtx t => .instr (decodeTx t)
  | .pseudo p => .instr (decodePseudo p)
  | .pcdcmd v => decodeCommand c v
  | .frame bytes tx => decodeFrame c bytes tx

/-! ## Encoding -/

/-- The offer that stands for an instruction: the code of its row, its arguments on their ports, the
bytes of its frame. -/
def encode (c : Config) : Instr → Offer
  | .calculateCrc b => .hostop 0x01#8 { buffer := b }
  | .execute cmd w s r t a k =>
    .hostop 0x02#8 { cmd := cmd, waitFlags := w, send := s, recv := r, txLastBits := t,
                     rxAlign := a, checkCrc := k }
  | .transceive s r t a k =>
    .hostop 0x03#8 { send := s, recv := r, txLastBits := t, rxAlign := a, checkCrc := k }
  | .activate h sp => .hostop 0x10#8 { uidHint := h, specific := sp }
  | .select h sp => .hostop 0x11#8 { uidHint := h, specific := sp }
  | .halt => .hostop 0x12#8 { }
  | .authenticateA u k b => .hostop 0x20#8 { uid := u, key := k, block := b }
  | .authenticateB u k b => .hostop 0x21#8 { uid := u, key := k, block := b }
  | .stopSession => .hostop 0x22#8 { }
  | .readBlock a o => .hostop 0x30#8 { addr := a, out := o }
  | .writeBlock a d => .hostop 0x31#8 { addr := a, data := d }
  | .writePage p d => .hostop 0x32#8 { page := p, data := d }
  | .mifareTransceive p i => .hostop 0x33#8 { payload := p, ignoreTimeout := i }
  | .rd a => .regtx (.rd a)
  | .rdb a n => .regtx (.rdb a n)
  | .wr a v => .regtx (.wr a v)
  | .wrb a bs => .regtx (.wrb a bs)
  | .setbits a m => .pseudo (.setbits a m)
  | .clrbits a m => .pseudo (.clrbits a m)
  | .poll a d f t => .pseudo (.poll a d f t)
  | .appendCrc f => .pseudo (.appendCrc f)
  | .verifyCrc r => .pseudo (.verifyCrc r)
  | .cmdIdle => .pcdcmd c.cmdIdle
  | .cmdCalcCrc => .pcdcmd c.cmdCalcCrc
  | .cmdTransceive => .pcdcmd c.cmdTransceive
  | .cmdMfAuthent => .pcdcmd c.cmdMfAuthent
  | .reqa => .frame [piccReqa] 7
  | .wupa => .frame [piccWupa] 7
  | .anticollCl1 kb known => .frame (c.selCl1 :: nvbOf kb :: known) (kb % 8)
  | .anticollCl2 kb known => .frame (c.selCl2 :: nvbOf kb :: known) (kb % 8)
  | .anticollCl3 kb known => .frame (c.selCl3 :: nvbOf kb :: known) (kb % 8)
  | .selectCl1 b0 b1 b2 b3 bcc => .frame [c.selCl1, nvbSelect, b0, b1, b2, b3, bcc] 0
  | .selectCl2 b0 b1 b2 b3 bcc => .frame [c.selCl2, nvbSelect, b0, b1, b2, b3, bcc] 0
  | .selectCl3 b0 b1 b2 b3 bcc => .frame [c.selCl3, nvbSelect, b0, b1, b2, b3, bcc] 0
  | .hlta => .frame [piccHlta, c.hltaArg] 0
  | .mfAuthKeyA b k t => .frame (piccAuthA :: b :: (k ++ t)) 0
  | .mfAuthKeyB b k t => .frame (piccAuthB :: b :: (k ++ t)) 0
  | .mfRead a => .frame [piccRead, a] 0
  | .mfWrite a d => .frame (piccWrite :: a :: d) 0
  | .mfWriteUl p d => .frame (piccWriteUl :: p :: d) 0

/-! ## The numbers of the opcode table -/

/-- The host operation codes of 30_encoding R81. -/
abbrev hostCodes : List Byte :=
  [0x01#8, 0x02#8, 0x03#8, 0x10#8, 0x11#8, 0x12#8, 0x20#8, 0x21#8, 0x22#8, 0x30#8, 0x31#8, 0x32#8,
    0x33#8]

/-- The offer of a one-byte row of the opcode table, its operands zero: a host operation code first,
then a chip command value, then a tag command with operand bytes of zero and, for a `SEL` byte, the
NVB of a probe with no known bits (log 9). -/
def offerOfByte (b : Byte) : Offer :=
  let c := Config.default
  if b ∈ hostCodes then .hostop b { }
  else if b ∈ [c.cmdIdle, c.cmdCalcCrc, c.cmdTransceive, c.cmdMfAuthent] then .pcdcmd b
  else if b = piccReqa ∨ b = piccWupa then .frame [b] 7
  else if b = c.selCl1 ∨ b = c.selCl2 ∨ b = c.selCl3 then .frame [b, nvbOf 0] 0
  else if b = piccHlta then .frame [b, 0] 0
  else if b = piccAuthA ∨ b = piccAuthB then .frame (b :: List.replicate 11 0) 0
  else if b = piccWrite then .frame (b :: List.replicate 17 0) 0
  else if b = piccWriteUl then .frame (b :: List.replicate 5 0) 0
  else .hostop b { }

/-- The offer of a word numbered as the opcode table numbers it. Rows of 16 bits hold the first two
bytes of a SELECT frame, "first byte in the high position" (the table's own words); the bytes after
them are zero. -/
def offerOfTableWord (nbits w : Nat) : Offer :=
  if nbits ≤ 8 then offerOfByte (BitVec.ofNat 8 w)
  else .frame [BitVec.ofNat 8 (w / 256), BitVec.ofNat 8 w, 0, 0, 0, 0, 0] 0

/-- The instruction the decoder reads from a word of the opcode table. -/
def decodeTableWord (nbits w : Nat) : Option Instr :=
  match decode Config.default (offerOfTableWord nbits w) with
  | .instr i => some i
  | .reject _ => none

end Sys2Proof
end

