-- ==== Sys2Proof/Machine/State.lean ====
section
/-! DEFINITION. The machine's state as plain data (10_state), and the state after reset (10_state
R46, R47; 70_reset R300, R303). -/

namespace Sys2Proof.Machine

/-- Why the machine is stuck. -/
inductive Fault where
  /-- Raised by every meaning when its instruction is issued while an operation is in progress: such
  an operation "has no step" (60_exceptions R291, 93 U2). Safe: the spec gives no behaviour. -/
  | interleavedOperation
  deriving DecidableEq, Repr

/-- Why a word on the command port gets no meaning. -/
inductive Refusal where
  /-- An arm of `exec` that has no meaning yet; no arm answers it. Safe. -/
  | notModelled (mnemonic : String)
  /-- Raised by `step`: a chip-command or frame word that is no encoding of 30_encoding R86, R92 to
  R102 and that the block never produces (R109). Safe (log 22). -/
  | notAnEncoding (r : Reject)
  deriving DecidableEq, Repr

/-- SELSTATE (10_state R25). -/
inductive SelState where
  | idle
  | probing
  | colliding
  | selecting
  | complete
  | exhausted
  deriving DecidableEq, Repr

/-- SEQ (10_state R24): `idle`, or the step rule whose transaction or time sample comes next. A step
rule that needs several has one label for each: `t` the time sample on entry to a poll loop, `r` a
read, `n` the time sample of an iteration, `w` a write, `h` and `l` the two result registers. -/
inductive Seq where
  | idle
  -- calculate_crc (41_crc)
  | r141 | r142 | r143 | r144 | r145 | r146 | r147t | r147r | r147n | r148h | r148l | r149
  -- execute (42_executor)
  | r161 | r162 | r163 | r164 | r165 | r166 | r167r | r167w | r168t | r168r | r168n | r169 | r170
  | r171 | r172
  -- select (43_select): the read of the collision register
  | r209
  -- SETBITS, CLRBITS, POLL on their own (40_transport); stop_session uses `r125r` and `r125w`
  | r124r | r124w | r125r | r125w | r127t | r127r | r127n
  deriving DecidableEq, Repr

/-- A label on the return stack (10_state R24): the rule that takes the result of a nested
operation. -/
inductive Ret where
  /-- standard frame with CRC: append the CRC to TXB and run the exchange as latched (30_encoding R94) -/
  | r94
  /-- `append_crc` on its own (41_crc R151) -/
  | r151
  /-- `verify_crc` on its own (41_crc R152) -/
  | r152
  /-- CRC comparison of `execute` (42_executor R175) -/
  | r175
  /-- `activate`: REQA exchange (43_select R193) -/
  | r193
  /-- `activate`: WUPA exchange (43_select R194) -/
  | r194
  /-- `activate`: the nested `select` (43_select R195) -/
  | r195
  /-- `select`: probe (43_select R206 to R209) -/
  | r206
  /-- `select`: CRC of the SELECT frame (43_select R213) -/
  | r213
  /-- a SELECT frame on its own: its CRC (43_select R213, R214; log 8) -/
  | r214
  /-- `select`: SELECT exchange (43_select R215) -/
  | r215
  /-- `halt`: CRC of the HLTA frame (43_select R223) -/
  | r223
  /-- `halt`: exchange (43_select R224) -/
  | r224
  /-- write phase 1 (44_session R248) -/
  | r248
  /-- `mifare_transceive`: CRC of the frame (44_session R250) -/
  | r250
  /-- `mifare_transceive`: exchange (44_session R250 to R252) -/
  | r251
  deriving DecidableEq, Repr

/-- What `ARG.recv` of the `execute` in progress denotes (10_state R23, 20_memory R54). -/
inductive RecvTarget where
  | absent
  /-- the host's buffer -/
  | host
  /-- ATQA, capacity 2 (43_select R193) -/
  | atqa
  /-- SAKB, capacity 3 (43_select R214) -/
  | sakb
  /-- ACKB, capacity 1 (44_session R250) -/
  | ackb
  /-- the window `BUF[idx..7)` (43_select R206) -/
  | window (idx : Nat)
  deriving DecidableEq, Repr

/-- Latched operands of the primitives that take more than one step (40_transport R124, R125, R127;
41_crc R152). -/
structure PrimArgs where
  addr : Byte := 0
  mask : Byte := 0
  doneMask : Byte := 0
  failMask : Byte := 0
  deadline : Nat := 0
  verify : List Byte := []
  deriving DecidableEq, Repr

/-- The host's side: command port, result port, host buffer and outputs (20_memory R54). -/
structure HostSide where
  port : List Offer := []
  result : Option Res := none
  buf : List Byte := []
  recvLen : Nat := 0
  rxLastBits : Nat := 0
  deriving DecidableEq, Repr

/-- Working registers of the poll loop, the CRC protocol, the executor and the MIFARE protocol
(10_state R21). `scratch` is the model's own (log 15). -/
structure WorkRegs where
  t0 : Nat := 0
  pollv : Byte := 0
  msb : Bool := false
  crc : Word16 := 0
  errsnap : Byte := 0
  n : Nat := 0
  rxlast : Nat := 0
  txb : List Byte := []
  ackb : List Byte := [0]
  scratch : Byte := 0
  deriving DecidableEq, Repr

/-- Working registers of the Select engine (10_state R21, R25, R26). -/
structure SelectRegs where
  state : SelState := .idle
  level : Nat := 0
  buf : List Byte := [0, 0, 0, 0, 0, 0, 0, 0, 0]
  kb : Nat := 0
  att : Nat := 0
  collpos : Nat := 0
  sakb : List Byte := [0, 0, 0]
  atqa : List Byte := [0, 0]
  uidAcc : Uid := { }
  deriving DecidableEq, Repr

/-- What the block has put into the chip through acknowledged writes (20_memory R50, R60): the last
byte written to each register address, and the bytes put into the FIFO since the last flush. It is
the model's own record (log 4) and no read is answered from it (R58). -/
structure ChipSide where
  written : List Host.Cell := []
  fifoLoad : List Byte := []
  deriving DecidableEq, Repr

/-- The environment's answer to one transaction: the bytes it supplies (none for a write), or
`TransportError` (30_encoding R84, 60_exceptions R276). -/
inductive Answer where
  | ok (bytes : List Byte)
  | transportError
  deriving DecidableEq, Repr

/-- The environment's inputs (20_memory R58, 60_exceptions R285): the answers it has ready for the
next transactions, how far the clock moves before each of the next samples, the last sample, and the
counter of the free values that stand in when a list is empty (log 1, log 2). -/
structure Env where
  answers : List Answer := []
  ticks : List Nat := []
  now : Nat := 0
  draws : Nat := 0
  deriving DecidableEq, Repr

/-- One entry of the history of the transport and time ports (00_scope R13, R15). -/
inductive Event where
  /-- a transaction and what came back; `none` is `TransportError` -/
  | tx (t : Tx) (answer : Option (List Byte))
  /-- a time sample -/
  | now (t : Nat)
  deriving DecidableEq, Repr

/-- The state of the machine. `cfg` is fixed (70_reset R302); `log` is newest first. -/
structure State where
  cfg : Config := { }
  host : HostSide := { }
  op : Byte := 0
  arg : Args := { }
  prim : PrimArgs := { }
  recvTarget : RecvTarget := .absent
  seq : Seq := .idle
  stack : List Ret := []
  reg : WorkRegs := { }
  sel : SelectRegs := { }
  chip : ChipSide := { }
  env : Env := { }
  log : List Event := []
  deriving DecidableEq, Repr

/-- The state after reset (10_state R46, 70_reset R300): no operation in progress, SELSTATE `Idle`,
result port empty, no transaction issued, the configuration at the spec's defaults; every other
register at the value log 5 names. -/
def State.reset : State :=
  { cfg := Config.default
    host := { }
    op := 0
    arg := { }
    prim := { }
    recvTarget := .absent
    seq := .idle
    stack := []
    reg := { }
    sel := { }
    chip := { }
    env := { }
    log := [] }

end Sys2Proof.Machine
end

