-- ==== Sys2Proof/Machine/Ops.lean ====
section
/-! DEFINITION. The shared operations: the record of the register space, the environment's answers,
one transaction, one time sample, ending an operation (`return` and `raise`), nested calls, and
accepting an operation at the command port. -/

namespace Sys2Proof.Machine

/-! ## The record of the register space (20_memory R50, R51; log 4) -/

/-- A record is canonical: addresses strictly rising and inside the 8-bit register space. -/
abbrev Memory.wf (m : List Host.Cell) : Prop :=
  m.Pairwise (fun x y => x.1 < y.1) ∧ ∀ x ∈ m, x.1 < 256

/-- What an address the block has not written reads as in the record: nothing is known of it
(10_state R47). -/
def Memory.unlisted : Option Byte := none

/-- The last byte the block wrote to an address. -/
def Memory.read : List Host.Cell → Nat → Option Byte
  | [], _ => Memory.unlisted
  | (a, b) :: rest, k => if a = k then some b else Memory.read rest k

/-- Records a byte written to an address, keeping the canonical form. -/
def Memory.write : List Host.Cell → Nat → Byte → List Host.Cell
  | [], k, v => [(k, v)]
  | (a, b) :: rest, k, v =>
    if k < a then (k, v) :: (a, b) :: rest
    else if k = a then (k, v) :: rest
    else (a, b) :: Memory.write rest k v

/-- One acknowledged byte written to a register (20_memory R60): FifoData appends to the FIFO
(10_state R38), `FIFO_FLUSH` to FifoLevel empties it (R39), every other address keeps the byte. -/
def ChipSide.putByte (c : Config) (ch : ChipSide) (addr v : Byte) : ChipSide :=
  if addr = aFifoData then { ch with fifoLoad := ch.fifoLoad ++ [v] }
  else
    { written := Memory.write ch.written addr.toNat v
      fifoLoad := if addr = aFifoLevel ∧ v = c.fifoFlush then [] else ch.fifoLoad }

/-- One acknowledged transaction: a bulk write puts its bytes in array order into the one address
(40_transport R123); a read puts nothing. -/
def ChipSide.put (c : Config) (ch : ChipSide) : Tx → ChipSide
  | .rd _ => ch
  | .rdb _ _ => ch
  | .wr a v => ch.putByte c a v
  | .wrb a bs => bs.foldl (fun ch v => ch.putByte c a v) ch

/-! ## The environment (20_memory R58, 60_exceptions R285) -/

/-- `n` free bytes, from the draw numbered `k` on. -/
def freeBytes (k : Nat) : Nat → List Byte
  | 0 => []
  | n + 1 => Config.freeByte k :: freeBytes (k + 1) n

/-- The `n` bytes a transaction brings back when the environment laid down `bs`: `bs` cut to `n`, or
filled up with free bytes (log 20). -/
def suppliedBytes (k n : Nat) (bs : List Byte) : List Byte :=
  bs.take n ++ freeBytes k (n - bs.length)

/-- What comes back from the next transaction, which asks for `n` bytes; `none` is
`TransportError`. -/
def Env.answer (e : Env) (n : Nat) : Option (List Byte) :=
  match e.answers with
  | .ok bs :: _ => some (suppliedBytes e.draws n bs)
  | .transportError :: _ => none
  | [] => if Config.freeReturns e.draws then some (freeBytes e.draws n) else none

/-- The environment after a transaction that asked for `n` bytes: the answer is used up, and the
next free values are other ones. -/
def Env.afterAnswer (e : Env) (n : Nat) : Env :=
  { e with answers := e.answers.tail, draws := e.draws + n + 1 }

/-- The next sample of the time port: at least the last one (60_exceptions R285). -/
def Env.sample (e : Env) : Nat :=
  match e.ticks with
  | d :: _ => e.now + d
  | [] => e.now + Config.freeTick e.draws

/-- The environment after a time sample. -/
def Env.afterSample (e : Env) : Env :=
  { e with ticks := e.ticks.tail, now := e.sample, draws := e.draws + 1 }

/-! ## Transactions and time samples -/

/-- The first byte of an answer (`RD` asks for one byte). -/
def firstByte (bs : List Byte) : Byte := bs.headD 0

/-- What comes back from the transaction `t` in the state `s`. -/
def State.answer (s : State) (t : Tx) : Option (List Byte) := s.env.answer t.readLen

/-- The state after the transaction `t`: the answer is used up, an acknowledged write is recorded,
the history has one more entry. A failed transaction records nothing (40_transport R126; log 19). -/
def State.afterTx (s : State) (t : Tx) : State :=
  { s with
    env := s.env.afterAnswer t.readLen
    chip := if (s.answer t).isSome then s.chip.put s.cfg t else s.chip
    log := .tx t (s.answer t) :: s.log }

/-- The state after one `Now()` sample, which is then `env.now`. -/
def State.afterNow (s : State) : State :=
  { s with env := s.env.afterSample, log := .now s.env.sample :: s.log }

/-! ## Ending an operation, nested calls -/

/-- How the pure computation after a transaction ends: the sequencer stands at its next label, or
the operation in hand ends with a result. -/
inductive Flow where
  | running (s : State)
  | done (r : Res) (s : State)
  deriving DecidableEq, Repr

/-- `raise e` (00_scope R11, 60_exceptions R280): the operation in hand ends with `Err(e)`; no
transaction, no restoring. Who catches it is the sequencer's return stack. -/
def raise (e : ExecError) (s : State) : Flow := .done (.err e) s

/-- `return v` (00_scope R11): the operation in hand ends with `Ok(v)`. -/
def ret (v : Value) (s : State) : Flow := .done (.ok v) s

/-- The host operations whose result on `Ok` is nothing (30_encoding R81). -/
abbrev opsReturningNothing : List Byte :=
  [0x12#8, 0x20#8, 0x21#8, 0x22#8, 0x31#8, 0x32#8, 0x33#8]

/-- The result the port shows for the operation `op` (30_encoding R81). -/
def portResult (op : Byte) : Res → Res
  | .ok v => if op ∈ opsReturningNothing then .ok .nothing else .ok v
  | .err e => .err e

/-- No working register survives an operation (10_state R22): SEQ at `IDLE`, SELSTATE at `Idle`, the
operation code, its arguments (a key among them, 44_session R240) and every other working register
discarded, that is, back at the value they have at reset (log 23). -/
def State.discard (s : State) : State :=
  { s with
    op := 0
    arg := { }
    prim := { }
    recvTarget := .absent
    seq := .idle
    stack := []
    reg := { }
    sel := { } }

/-- The outermost operation ends: the result port takes the result, and the working registers are
discarded (60_exceptions R280; 10_state R22, R24). No clean-up reaches the chip. -/
def deliver (r : Res) (s : State) : State :=
  { s.discard with host := { s.host with result := some (portResult s.op r) } }

/-- `pc <- label` (00_scope R11). -/
def goto (label : Seq) (s : State) : State := { s with seq := label }

/-- Pushes the rule that takes the result of the nested operation entered next (10_state R24). -/
def push (l : Ret) (s : State) : State := { s with stack := l :: s.stack }

/-- One transaction, then `k`; a `TransportError` ends the operation in hand at once
(40_transport R126). -/
def onTx (t : Tx) (k : List Byte → State → Flow) (s : State) : Flow :=
  match s.answer t with
  | some bs => k bs (s.afterTx t)
  | none => raise .transportError (s.afterTx t)

/-- `WR(addr, v)`, then the label `next` (40_transport R122). -/
def writeThen (addr v : Byte) (next : Seq) (s : State) : Flow :=
  onTx (.wr addr v) (fun _ s => .running (goto next s)) s

/-- `RD(addr)`, then `k` with the byte (40_transport R120). -/
def readThen (addr : Byte) (k : Byte → State → Flow) (s : State) : Flow :=
  onTx (.rd addr) (fun bs s => k (firstByte bs) s) s

/-- A bulk transfer of `len` bytes is not issued (40_transport R128; `ZERO_LEN_BULK`, 00_scope R8). -/
def bulkElided (c : Config) (len : Nat) : Bool := len == 0 && c.zeroLenBulk == .elide

/-- The label that comes next: the bulk transfer's own, or, when it is elided, the label behind it. -/
def bulkLabel (c : Config) (len : Nat) (bulk behind : Seq) : Seq :=
  if bulkElided c len then behind else bulk

/-! ## The poll loop (40_transport R127) -/

/-- `v & m != 0`. -/
def anyBit (v m : Byte) : Bool := v &&& m != 0

/-- `x[T0] <- Now()`, then the first read. -/
def pollEnter (head : Seq) (s : State) : Flow :=
  let s := s.afterNow
  .running (goto head { s with reg := { s.reg with t0 := s.env.now } })

/-- `x[POLLV] <- RD(addr)`; completion is tested first, then the failure mask, then time. -/
def pollRead (addr doneMask failMask : Byte) (again : Seq) (completed : State → Flow) (s : State) :
    Flow :=
  readThen addr
    (fun v s =>
      let s := { s with reg := { s.reg with pollv := v } }
      if anyBit v doneMask then completed s
      else if anyBit v failMask then raise .timeout s
      else .running (goto again s)) s

/-- `if Now() - x[T0] >= deadline then raise Timeout`, else the next read. -/
def pollTime (deadline : Nat) (head : Seq) (s : State) : Flow :=
  let s := s.afterNow
  if deadline ≤ s.env.now - s.reg.t0 then raise .timeout s else .running (goto head s)

/-! ## The command port -/

/-- Where an operation that ends without a nested caller leaves the state. -/
def land : Flow → State
  | .running s => s
  | .done r s => deliver r s

/-- The registers as an operation finds them when it starts: OP and the arguments latched
(20_memory R66), nothing nested. That the result of the operation before leaves the result port at
this point is the model's choice (DESIGN CHOICE, log 28). Rows that are no host operation leave OP at
0x00 (log 8). -/
def State.latched (s : State) (op : Byte) (ports : Args) : State :=
  { s with op := op, arg := ports, stack := [], host := { s.host with result := none } }

/-- An instruction is issued: only at `IDLE` (60_exceptions R291). -/
def accept (op : Byte) (ports : Args) (start : State → Flow) (s : State) :
    Host.Outcome State Fault Refusal :=
  if s.seq = .idle then .next (land (start (s.latched op ports)))
  else .fault .interleavedOperation

/-- A host operation code outside the table: `Err(InvalidArgument)`, no transaction (30_encoding
R83). -/
def refuseCode (code : Byte) (s : State) : State :=
  land (raise .invalidArgument (s.latched code { }))

end Sys2Proof.Machine
end

