-- ==== Sys2Proof/Machine/Flags.lean ====
section
/-! DEFINITION. Every condition and field value the block computes from a byte it has read: the error
snapshot (10_state R27), field extraction (30_encoding R90), collision position (R91), CRC assembly
and split (41_crc R148, 30_encoding R106), PICC type (43_select R221), and the recommended CRC
function (41_crc R150). -/

namespace Sys2Proof.Machine

/-- The error status register snapshot as seven booleans (10_state R27). -/
structure ErrFlags where
  write : Bool
  overheat : Bool
  overflow : Bool
  collision : Bool
  crc : Bool
  parity : Bool
  protocol : Bool
  deriving DecidableEq, Repr

/-- The booleans of a byte read from Error (10_state R27). -/
def errFlags (c : Config) (snap : Byte) : ErrFlags :=
  { write := anyBit snap c.errWrite
    overheat := anyBit snap c.errOverheat
    overflow := anyBit snap c.errOverflow
    collision := anyBit snap c.errCollision
    crc := anyBit snap c.errCrc
    parity := anyBit snap c.errParity
    protocol := anyBit snap c.errProtocol }

/-- The booleans that cause ProtocolError (42_executor R169): overheat and crc are not among them. -/
def ErrFlags.protocolClass (f : ErrFlags) : Bool := f.write || f.overflow || f.parity || f.protocol

/-- `RD(A_FIFOLEVEL) & FIFOLEVEL_MASK` (30_encoding R90). -/
def fifoCount (c : Config) (v : Byte) : Nat := (v &&& c.fifoLevelMask).toNat

/-- `RD(A_CONTROL) & CTRL_RXLAST_MASK` (30_encoding R90). -/
def rxLastCount (c : Config) (v : Byte) : Nat := (v &&& c.ctrlRxLastMask).toNat

/-- `(RD(A_MODE) & MODE_MSB_FIRST) != 0` (30_encoding R90). -/
def msbFirst (c : Config) (v : Byte) : Bool := anyBit v c.modeMsbFirst

/-- The collision position: the field of Coll, where 0 means bit 32 (30_encoding R91). -/
def collisionPosition (c : Config) (v : Byte) : Nat :=
  let f := (v &&& c.collPosMask).toNat
  if f = 0 then 32 else f

/-- `lo8` (00_scope R11, 30_encoding R106). -/
def lo8 (w : Word16) : Byte := w.setWidth 8

/-- `hi8` (00_scope R11, 30_encoding R106). -/
def hi8 (w : Word16) : Byte := (w >>> 8).setWidth 8

/-- The 16-bit value of a high and a low byte (30_encoding R106). -/
def joinCrc (hi lo : Byte) : Word16 := (hi.setWidth 16 <<< 8) ||| lo.setWidth 16

/-- The result of the CRC unit from the two result registers, `h` read from CrcResultH and `l` from
CrcResultL, in the order the mode bit dictates (41_crc R148). -/
def assembleCrc (c : Config) (msb : Bool) (h l : Byte) : Word16 :=
  match c.crcOrder, msb with
  | .highFirstWhenClear, false => joinCrc h l
  | .highFirstWhenClear, true => joinCrc l h
  | .highFirstWhenSet, false => joinCrc l h
  | .highFirstWhenSet, true => joinCrc h l

/-- The two CRC bytes of a frame, low byte first (20_memory R55). -/
def crcBytes (w : Word16) : List Byte := [lo8 w, hi8 w]

/-- A received CRC pair equals the computed one (42_executor R175, 41_crc R152): the last two bytes
of the first `n` of `r`, low byte first. -/
def crcMatches (r : List Byte) (n : Nat) (w : Word16) : Bool :=
  r.getD (n - 2) 0 == lo8 w && r.getD (n - 1) 0 == hi8 w

/-- `picc_type_of(sak)` (43_select R221): the masks count bits from 0 (90_conflicts C1), the order of
the tests is that of C2. -/
def piccTypeOf (c : Config) (sak : Byte) : PiccType :=
  if anyBit sak 0x04#8 then .notCompleted
  else if anyBit sak 0x20#8 then .iso14443_4
  else if anyBit sak 0x40#8 then .iso18092
  else
    match c.sakTable.lookup sak with
    | some t => t
    | none => .unknown

/-- One byte of CRC_A (41_crc R150). -/
def crcAByte (crc : Word16) (b : Byte) : Word16 :=
  let b := b ^^^ lo8 crc
  let b := b ^^^ (b <<< 4)
  let w : Word16 := b.setWidth 16
  (crc >>> 8) ^^^ (w <<< 8) ^^^ (w <<< 3) ^^^ (w >>> 4)

/-- CRC_A of ISO/IEC 14443-3, the recommended instance of `crc16` (41_crc R150). -/
def crcA (bs : List Byte) : Word16 := bs.foldl crcAByte 0x6363#16

/-- `crc16` as the configuration has it (00_scope R8, 41_crc R150): what the chip's CRC unit computes.
No rule of the block uses it (log 21). -/
def crc16Of (c : Config) (bs : List Byte) : Word16 :=
  match c.crc16 with
  | .crcA => crcA bs
  | .other k => Config.otherCrc16 k bs

end Sys2Proof.Machine
end

