-- ==== Sys2Proof/Machine/Operands.lean ====
section
/-! DEFINITION. The operand forms: the receive buffers of `execute` (20_memory R54, 10_state R23), the
merge of a received frame (42_executor R171), BitFraming (30_encoding R88), the probe geometry of the
Select engine (43_select R205, R206), its known bytes and UID copy (R202, R210, R217), and the frames
of the session operations (30_encoding R101, R102). -/

namespace Sys2Proof.Machine

/-! ## Byte arrays -/

/-- `new` laid over the front of `old`; the length of `old` stays. -/
def overlay (old new : List Byte) : List Byte := new.take old.length ++ old.drop new.length

/-- `new` laid over `old` from index `at` on; the length of `old` stays. -/
def overlayAt (old : List Byte) (off : Nat) (new : List Byte) : List Byte :=
  old.take off ++ overlay (old.drop off) new

/-! ## Receive buffers -/

/-- The contents of the buffer `ARG.recv` denotes; its length is the capacity. -/
def recvBytes (s : State) : List Byte :=
  match s.recvTarget with
  | .absent => []
  | .host => s.host.buf
  | .atqa => s.sel.atqa
  | .sakb => s.sel.sakb
  | .ackb => s.reg.ackb
  | .window idx => (s.sel.buf.take 7).drop idx

/-- Whether the caller supplied `recv` (42_executor R160). -/
def recvPresent (s : State) : Bool := s.recvTarget != .absent

/-- Puts `bs` into the buffer `ARG.recv` denotes; a window is part of BUF (10_state R23). -/
def setRecvBytes (bs : List Byte) (s : State) : State :=
  match s.recvTarget with
  | .absent => s
  | .host => { s with host := { s.host with buf := bs } }
  | .atqa => { s with sel := { s.sel with atqa := bs } }
  | .sakb => { s with sel := { s.sel with sakb := bs } }
  | .ackb => { s with reg := { s.reg with ackb := bs } }
  | .window idx => { s with sel := { s.sel with buf := overlayAt s.sel.buf (min idx 7) bs } }

/-- Writes the host's outputs `recv_len` and `rx_last_bits` (20_memory R54), which an exchange has when
the host lent its buffer. Inside the block the caller takes the counts from N and RXLAST (10_state R21;
log 14). -/
def setHostOutput (f : HostSide → HostSide) (s : State) : State :=
  { s with host := if s.recvTarget = .host then f s.host else s.host }

/-- The first received byte keeps the low `rx_align` bits of what the buffer held; every further byte
is copied whole (42_executor R171, 20_memory R57). -/
def mergeFirst (rxAlign : Nat) (old d : List Byte) : List Byte :=
  match d with
  | [] => []
  | x :: rest =>
    if 0 < rxAlign then
      let m : Byte := 0xFF#8 <<< rxAlign
      ((old.headD 0 &&& ~~~m) ||| (x &&& m)) :: rest
    else x :: rest

/-- The buffer after `d` was read from the FIFO (42_executor R171). -/
def receivedInto (rxAlign : Nat) (old d : List Byte) : List Byte :=
  overlay old (mergeFirst rxAlign old d)

/-- The byte written to BitFraming in step 5 of `execute` (30_encoding R88, 42_executor R165); a count
above 7 is masked into its 3-bit field (93 U8; log 11). -/
def bitFraming (c : Config) (rxAlign txLastBits : Nat) : Byte :=
  ((BitVec.ofNat 8 rxAlign &&& 0x07#8) <<< c.bfRxAlignShift) |||
    (BitVec.ofNat 8 txLastBits &&& c.bfTxLastMask)

/-! ## The Select engine's operands -/

/-- Exclusive or of the four bytes (30_encoding R98). -/
def bccOf (bs : List Byte) : Byte := bs.foldl (· ^^^ ·) 0

/-- `u[i]` of a UID record; a free value where the record has no such byte (log 27). -/
def uidByte (u : Uid) (i : Nat) : Byte := u.bytes.getD i (Config.missingByte u.bytes i)

/-- The four UID/cascade bytes of level `l` for a known UID (43_select R202). -/
def knownBytes (u : Uid) (l : Nat) : List Byte :=
  if u.size > 3 * (l + 1) + 1 then
    [cascadeTag, uidByte u (3 * l), uidByte u (3 * l + 1), uidByte u (3 * l + 2)]
  else
    [uidByte u (3 * l), uidByte u (3 * l + 1), uidByte u (3 * l + 2),
      uidByte u (3 * l + 3)]

/-- The length of a probe frame with `kb` known bits (43_select R205). -/
def probeLen (kb : Nat) : Nat := 2 + (kb + 7) / 8

/-- Where the receive window of a probe starts (43_select R205). -/
def probeWindow (kb : Nat) : Nat := 2 + kb / 8

/-- The bit at collision position `p` set in BUF (43_select R210). -/
def setCollisionBit (p : Nat) (buf : List Byte) : List Byte :=
  let i := 2 + (p - 1) / 8
  buf.set i (buf.getD i 0 ||| (1#8 <<< ((p - 1) % 8)))

/-- The bytes of a level that go into the UID: three behind a cascade tag, else four (43_select
R217). -/
def levelUidBytes (buf : List Byte) : List Byte :=
  if buf.getD 2 0 = cascadeTag then (buf.drop 3).take 3 else (buf.drop 2).take 4

/-- UIDACC after the bytes of level `l` were copied (43_select R217, 30_encoding R107). -/
def copyLevel (l : Nat) (buf : List Byte) (u : Uid) : Uid :=
  { u with bytes := overlayAt u.bytes (3 * l) (levelUidBytes buf) }

/-- UID sizes an operation accepts (43_select R199, 44_session R240). -/
def uidSizeLegal (n : Nat) : Bool := n == 4 || n == 7 || n == 10

/-- The arguments of `select` and `activate` are legal (43_select R199). -/
def selectArgsLegal (hint : Option Uid) (specific : Bool) : Bool :=
  !specific ||
    (match hint with
    | some u => uidSizeLegal u.size
    | none => false)

/-! ## The session operations' frames -/

/-- The last four bytes of a UID: `bytes[size-4..size)` (20_memory R70). -/
def uidTail (u : Uid) : List Byte := (List.range 4).map fun i => uidByte u (u.size - 4 + i)

/-- Authentication frame (30_encoding R101, 44_session R241). -/
def authFrame (cmd block : Byte) (key tail : List Byte) : List Byte := cmd :: block :: (key ++ tail)

end Sys2Proof.Machine
end

