-- ==== Sys2Proof/Machine/CrcSteps.lean ====
section
/-! DEFINITION. The steps of the CRC16 coprocessor protocol, one definition for each transaction or
time sample (41_crc R141 to R149), and the nested call of it. -/

namespace Sys2Proof.Machine

/-- Enters `calculate_crc(buffer)` at its first step (41_crc R140). -/
def enterCrc (buffer : List Byte) (s : State) : Flow :=
  .running (goto .r141 { s with arg := { s.arg with buffer := buffer } })

/-- Nested `calculate_crc(buffer)`: its result goes to `l` (10_state R24). -/
def callCrc (l : Ret) (buffer : List Byte) (s : State) : Flow := enterCrc buffer (push l s)

/-- Step 1, idle (R141). -/
def crcIdle (s : State) : Flow := writeThen aCommand s.cfg.cmdIdle .r142 s

/-- Step 2, clear the CRC-done flag (R142). -/
def crcClear (s : State) : Flow := writeThen aDivIrq s.cfg.divIrqCrc .r143 s

/-- Step 3, flush (R143). -/
def crcFlush (s : State) : Flow :=
  writeThen aFifoLevel s.cfg.fifoFlush (bulkLabel s.cfg s.arg.buffer.length .r144 .r145) s

/-- Step 4, load (R144). -/
def crcLoad (s : State) : Flow :=
  onTx (.wrb aFifoData s.arg.buffer) (fun _ s => .running (goto .r145 s)) s

/-- Step 5, start (R145). -/
def crcStart (s : State) : Flow := writeThen aCommand s.cfg.cmdCalcCrc .r146 s

/-- Step 6, byte-order mode bit (R146). -/
def crcMode (s : State) : Flow :=
  readThen aMode
    (fun v s => .running (goto .r147t { s with reg := { s.reg with msb := msbFirst s.cfg v } })) s

/-- Step 7, poll: entry (R147). -/
def crcPollEnter (s : State) : Flow := pollEnter .r147r s

/-- Step 7, poll: read; there is no failure mask (R147). -/
def crcPollRead (s : State) : Flow :=
  pollRead aDivIrq s.cfg.divIrqCrc 0 .r147n (fun s => .running (goto .r148h s)) s

/-- Step 7, poll: time (R147). -/
def crcPollTime (s : State) : Flow := pollTime s.cfg.tCrcMs .r147r s

/-- Step 8, first result register (R148). -/
def crcReadHigh (s : State) : Flow :=
  readThen aCrcResultH
    (fun v s => .running (goto .r148l { s with reg := { s.reg with scratch := v } })) s

/-- Step 8, second result register, and the result assembled (R148). -/
def crcReadLow (s : State) : Flow :=
  readThen aCrcResultL
    (fun v s =>
      .running (goto .r149
        { s with reg := { s.reg with crc := assembleCrc s.cfg s.reg.msb s.reg.scratch v } })) s

/-- Step 9, idle and return (R149). -/
def crcFinish (s : State) : Flow :=
  onTx (.wr aCommand s.cfg.cmdIdle) (fun _ s => ret (.crc s.reg.crc) s) s

end Sys2Proof.Machine
end

