-- ==== Sys2Proof/Machine/ExecutorSteps.lean ====
section
/-! DEFINITION. The steps of the command executor, one definition for each transaction or time sample
(42_executor R161 to R176), and how an exchange is entered. -/

namespace Sys2Proof.Machine

/-- The registers `execute` works from (42_executor R160): command, wait flags, frame, receive
buffer, framing, CRC check. -/
def latchExchange (cmd waitFlags : Byte) (send : List Byte) (target : RecvTarget)
    (txLastBits rxAlign : Nat) (checkCrc : Bool) (s : State) : State :=
  { s with
    arg := { s.arg with cmd := cmd, waitFlags := waitFlags, txLastBits := txLastBits,
                        rxAlign := rxAlign, checkCrc := checkCrc }
    recvTarget := target
    reg := { s.reg with txb := send } }

/-- `transceive` is `execute` with `cmd = CMD_TRANSCEIVE`, `wait_flags = {Rx, Idle}` (R177,
30_encoding R87). -/
def latchTransceive (send : List Byte) (target : RecvTarget) (txLastBits rxAlign : Nat)
    (checkCrc : Bool) (s : State) : State :=
  latchExchange s.cfg.cmdTransceive (s.cfg.irqRx ||| s.cfg.irqIdle) send target txLastBits rxAlign
    checkCrc s

/-- Enters `execute`, as latched, at its first step. -/
def enterExecute (s : State) : Flow := .running (goto .r161 s)

/-- Step 1, set idle (R161). -/
def exIdle (s : State) : Flow := writeThen aCommand s.cfg.cmdIdle .r162 s

/-- Step 2, enable all completion interrupt sources (R162). -/
def exClear (s : State) : Flow := writeThen aComIrq s.cfg.comIrqClear .r163 s

/-- Step 3, flush FIFO (R163). -/
def exFlush (s : State) : Flow :=
  writeThen aFifoLevel s.cfg.fifoFlush (bulkLabel s.cfg s.reg.txb.length .r164 .r165) s

/-- Step 4, write `send` into FIFO (R164). -/
def exLoad (s : State) : Flow :=
  onTx (.wrb aFifoData s.reg.txb) (fun _ s => .running (goto .r165 s)) s

/-- Step 5, bit framing (R165). -/
def exFraming (s : State) : Flow :=
  writeThen aBitFraming (bitFraming s.cfg s.arg.rxAlign s.arg.txLastBits) .r166 s

/-- Step 6, issue `cmd` (R166); step 7 follows only for Transceive (R167). -/
def exCommand (s : State) : Flow :=
  writeThen aCommand s.arg.cmd (if s.arg.cmd = s.cfg.cmdTransceive then .r167r else .r168t) s

/-- Step 7, start send: read (R167, 40_transport R124). -/
def exStartRead (s : State) : Flow :=
  readThen aBitFraming
    (fun v s => .running (goto .r167w { s with reg := { s.reg with scratch := v } })) s

/-- Step 7, start send: write (R167, 40_transport R124). -/
def exStartWrite (s : State) : Flow :=
  writeThen aBitFraming (s.reg.scratch ||| s.cfg.bfStartSend) .r168t s

/-- Step 8, completion poll: entry (R168). -/
def exPollEnter (s : State) : Flow := pollEnter .r168r s

/-- Step 8, completion poll: read (R168). -/
def exPollRead (s : State) : Flow :=
  pollRead aComIrq s.arg.waitFlags s.cfg.irqTimer .r168n (fun s => .running (goto .r169 s)) s

/-- Step 8, completion poll: time (R168). -/
def exPollTime (s : State) : Flow := pollTime s.cfg.tExecMs .r168r s

/-- Step 16: `return (recv_len, rx_last_bits)` with the receive buffer (R176). The counts are N and
RXLAST, which R171 and R172 copy into the outputs and R170 makes zero without `recv` (log 14). -/
def exReturn (s : State) : Flow := ret (.received s.reg.n (recvBytes s) s.reg.rxlast) s

/-- Steps 13 to 16, which begin without a transaction: collision (R173), response shape (R174), the
nested CRC computation (R175), success (R176). -/
def exClassify (s : State) : Flow :=
  if (errFlags s.cfg s.reg.errsnap).collision then raise .collision s
  else if s.arg.checkCrc && recvPresent s then
    if s.reg.n = 1 ∧ s.reg.rxlast = 4 then raise .nack s
    else if s.reg.n < 2 ∨ s.reg.rxlast ≠ 0 then raise .crcMismatch s
    else callCrc .r175 ((recvBytes s).take (s.reg.n - 2)) s
  else exReturn s

/-- Without `recv` steps 10 to 12 are not performed: `N <- 0`, `RXLAST <- 0`, and the outputs stay
(R160, R170, R178). -/
def exNoRecv (s : State) : State := { s with reg := { s.reg with n := 0, rxlast := 0 } }

/-- Step 9, error snapshot (R169). -/
def exError (s : State) : Flow :=
  readThen aError
    (fun v s =>
      let s := { s with reg := { s.reg with errsnap := v } }
      if (errFlags s.cfg v).protocolClass then raise .protocolError s
      else if recvPresent s then .running (goto .r170 s)
      else exClassify (exNoRecv s)) s

/-- `recv[..] <- d; recv_len <- x[N]` (R171). -/
def exStore (d : List Byte) (s : State) : State :=
  setHostOutput (fun h => { h with recvLen := s.reg.n })
    (setRecvBytes (receivedInto s.arg.rxAlign (recvBytes s) d) s)

/-- Step 10, length (R170); an empty answer makes no bulk read (R171, 40_transport R128). -/
def exLength (s : State) : Flow :=
  readThen aFifoLevel
    (fun v s =>
      let s := { s with reg := { s.reg with n := fifoCount s.cfg v } }
      if (recvBytes s).length < s.reg.n then raise .invalidArgument s
      else if bulkElided s.cfg s.reg.n then .running (goto .r172 (exStore [] s))
      else .running (goto .r171 s)) s

/-- Step 11, data (R171). -/
def exData (s : State) : Flow :=
  onTx (.rdb aFifoData s.reg.n) (fun d s => .running (goto .r172 (exStore d s))) s

/-- Step 12, valid bits of the last received byte (R172), then steps 13 to 16. -/
def exControl (s : State) : Flow :=
  readThen aControl
    (fun v s =>
      exClassify
        (setHostOutput (fun h => { h with rxLastBits := rxLastCount s.cfg v })
          { s with reg := { s.reg with rxlast := rxLastCount s.cfg v } })) s

/-- Step 15 after the nested CRC computation (R175): an error of the nested call is the error of
`execute`; otherwise the last two received bytes are compared. -/
def exCrcDone (r : Res) (s : State) : Flow :=
  match r with
  | .err e => raise e s
  | .ok _ =>
    if crcMatches (recvBytes s) s.reg.n s.reg.crc then exReturn s else raise .crcMismatch s

end Sys2Proof.Machine
end

