-- ==== Sys2Proof/Machine/SelectSteps.lean ====
section
/-! DEFINITION. The Anti-collision and Select engine between its exchanges (43_select R193 to R224):
the pure computation of `activate`, `select` and `halt`, and the one transaction of its own, the read
of the collision register (R209). -/

namespace Sys2Proof.Machine

/-- `x[SELSTATE] <- st`. -/
def setSelState (st : SelState) (s : State) : State := { s with sel := { s.sel with state := st } }

/-- `x[SELSTATE] <- Idle; raise e` (43_select R208, R211, R213, R215). -/
def selectFails (e : ExecError) (s : State) : Flow := raise e (setSelState .idle s)

/-- Level initialisation (R201). -/
def levelInit (s : State) : State :=
  { s with
    sel := { s.sel with buf := [s.cfg.selCl s.sel.level, 0, 0, 0, 0, 0, 0, 0, 0], kb := 0, att := 0,
                        collpos := 0 } }

/-- Build a probe (R205) and latch its exchange (R206). -/
def latchProbe (s : State) : State :=
  let kb := s.sel.kb
  let buf := s.sel.buf.set 1 (nvbOf kb)
  latchTransceive (buf.take (probeLen kb)) (.window (probeWindow kb)) (kb % 8) (kb % 8) false
    { s with sel := { s.sel with att := s.sel.att + 1, buf := buf } }

/-- Send a probe (R205, R206); its result goes to R207 to R209. -/
def sendProbe (s : State) : Flow := enterExecute (push .r206 (latchProbe s))

/-- The candidate is complete: NVB of the SELECT and its CRC (R207, R212, R213). -/
def startSelecting (s : State) : Flow :=
  let buf := s.sel.buf.set 1 nvbSelect
  callCrc .r213 (buf.take 7)
    { s with sel := { s.sel with state := .selecting, buf := buf } }

/-- Known bytes (R202). -/
def loadKnown (u : Uid) (s : State) : State :=
  let k := knownBytes u s.sel.level
  { s with sel := { s.sel with buf := overlayAt s.sel.buf 2 (k ++ [bccOf k]), kb := 32 } }

/-- One cascade level from its start (R200): known bytes when `specific`, else probing (R202, R204). -/
def startLevel (s : State) : Flow :=
  let s := levelInit s
  if s.arg.specific then startSelecting (loadKnown (s.arg.uidHint.getD { }) s)
  else sendProbe (setSelState .probing s)

/-- `select` from its entry (R199). -/
def enterSelect (s : State) : Flow :=
  if selectArgsLegal s.arg.uidHint s.arg.specific then
    startLevel { s with sel := { s.sel with uidAcc := { }, level := 0 } }
  else raise .invalidArgument s

/-- The probe ended (R207, R208); after a collision the position is read next (R209). -/
def probeDone (r : Res) (s : State) : Flow :=
  match r with
  | .ok _ => startSelecting s
  | .err .collision => .running (goto .r209 (setSelState .colliding s))
  | .err e => selectFails e s

/-- Extend the known prefix (R210). -/
def extendPrefix (p : Nat) (s : State) : State :=
  { s with sel := { s.sel with collpos := p, kb := p, buf := setCollisionBit p s.sel.buf } }

/-- Read the collision position (R209), extend the prefix (R210), probe again within the bound
(R211). -/
def collisionRead (s : State) : Flow :=
  readThen aColl
    (fun v s =>
      let s := extendPrefix (collisionPosition s.cfg v) s
      if s.sel.att = s.cfg.maxProbes then selectFails .collision s
      else sendProbe (setSelState .probing s)) s

/-- BUF[7..9) takes the CRC, SAKB is cleared, and the SELECT exchange is latched (R213, R214). -/
def latchSelect (s : State) : State :=
  let buf := overlayAt s.sel.buf 7 (crcBytes s.reg.crc)
  latchTransceive buf .sakb 0 0 true { s with sel := { s.sel with buf := buf, sakb := [0, 0, 0] } }

/-- The CRC of the SELECT frame is there (R213): exchange (R215). -/
def selectCrcDone (r : Res) (s : State) : Flow :=
  match r with
  | .err e => selectFails e s
  | .ok _ => enterExecute (push .r215 (latchSelect s))

/-- Finalise (R220). -/
def finaliseUid (sak : Byte) (s : State) : Flow :=
  let u : Uid :=
    { s.sel.uidAcc with size := 3 * (s.sel.level + 1) + 1, sak := sak, piccType := piccTypeOf s.cfg sak }
  let s := setSelState .complete { s with sel := { s.sel with uidAcc := u } }
  ret (.uid u) (setSelState .idle s)

/-- The SELECT was answered: SAK, copy, cascade test (R216 to R219). -/
def selectAnswered (s : State) : Flow :=
  let sak := s.sel.sakb.getD 0 0
  let s := { s with sel := { s.sel with uidAcc := copyLevel s.sel.level s.sel.buf s.sel.uidAcc } }
  if anyBit sak sakNotComplete then
    if s.sel.level < maxLevels - 1 then
      startLevel { s with sel := { s.sel with level := s.sel.level + 1 } }
    else selectFails .protocolError (setSelState .exhausted s)
  else finaliseUid sak s

/-- The SELECT exchange ended (R215). -/
def selectDone (r : Res) (s : State) : Flow :=
  match r with
  | .err e => selectFails e s
  | .ok _ => selectAnswered s

/-- A SELECT frame on its own: its CRC is there, exchange as in R215 (log 8). -/
def selectFrameCrcDone (r : Res) (s : State) : Flow :=
  match r with
  | .err e => raise e s
  | .ok _ => enterExecute (latchSelect s)

/-! ## activate -/

/-- The ATQA exchange of a short frame: 7 bits, no CRC, answer into ATQA (R193, R194, 30_encoding
R93). -/
def latchShort (cmd : Byte) (s : State) : State := latchTransceive [cmd] .atqa 7 0 false s

/-- ATQA cleared before REQA (R193). -/
def clearAtqa (s : State) : State := { s with sel := { s.sel with atqa := [0, 0] } }

/-- REQA (R193). -/
def sendReqa (s : State) : Flow :=
  enterExecute (push .r193 (latchShort piccReqa (clearAtqa s)))

/-- `return select(uid_hint, specific)` (R195). -/
def proceedToSelect (s : State) : Flow := enterSelect (push .r195 s)

/-- The REQA exchange ended: `Collision` is tolerated, anything else leads to WUPA (R193, R194). -/
def reqaDone (r : Res) (s : State) : Flow :=
  match r with
  | .ok _ => proceedToSelect s
  | .err .collision => proceedToSelect s
  | .err _ => enterExecute (push .r194 (latchShort piccWupa s))

/-- The WUPA exchange ended (R194, R195). -/
def wupaDone (r : Res) (s : State) : Flow :=
  match r with
  | .ok _ => proceedToSelect s
  | .err .collision => proceedToSelect s
  | .err e => raise e s

/-! ## halt -/

/-- The CRC of the HLTA frame is there (R223): exchange without `recv`. -/
def haltCrcDone (r : Res) (s : State) : Flow :=
  match r with
  | .err e => raise e s
  | .ok _ =>
    enterExecute (push .r224
      (latchTransceive (s.reg.txb ++ crcBytes s.reg.crc) .absent 0 0 false s))

/-- Result of `halt` (R224): `Timeout` is success, an answer is a failure. -/
def haltDone (r : Res) (s : State) : Flow :=
  match r with
  | .ok _ => raise .protocolError s
  | .err .timeout => ret .nothing s
  | .err e => raise e s

end Sys2Proof.Machine
end

