-- ==== Sys2Proof/Machine/SessionSteps.lean ====
section
/-! DEFINITION. The standard frame with CRC (30_encoding R94) and the MIFARE protocol between its
exchanges (44_session R247 to R252), and what `append_crc` and `verify_crc` do with the CRC (41_crc
R151, R152). -/

namespace Sys2Proof.Machine

/-- A frame with CRC (30_encoding R94): the exchange is latched, and the CRC of the payload is
computed first (41_crc R151); its result goes to `l`. -/
def startFrame (l : Ret) (payload : List Byte) (target : RecvTarget) (checkCrc : Bool) (s : State) :
    Flow :=
  callCrc l payload (latchTransceive payload target 0 0 checkCrc s)

/-- TXB with the CRC appended, low byte first (41_crc R151). -/
def appendCrcToTxb (s : State) : State :=
  { s with reg := { s.reg with txb := s.reg.txb ++ crcBytes s.reg.crc } }

/-- The CRC of a standard frame is there: the exchange as latched (R94, 44_session R247). -/
def frameCrcDone (r : Res) (s : State) : Flow :=
  match r with
  | .err e => raise e s
  | .ok _ => enterExecute (appendCrcToTxb s)

/-- `append_crc` returns the frame with its CRC (41_crc R151). -/
def appendCrcDone (r : Res) (s : State) : Flow :=
  match r with
  | .err e => raise e s
  | .ok _ => ret (.bytes (s.reg.txb ++ crcBytes s.reg.crc)) (appendCrcToTxb s)

/-- The verdict of `verify_crc` on an array, given the CRC of all but its last two bytes (41_crc R152):
a free value for fewer than two bytes (log 27). -/
def verifyVerdict (r : List Byte) (w : Word16) : Bool :=
  if r.length < 2 then Config.shortVerify r w else crcMatches r r.length w

/-- `verify_crc` compares (41_crc R152). -/
def verifyCrcDone (r : Res) (s : State) : Flow :=
  match r with
  | .err e => raise e s
  | .ok _ =>
    if verifyVerdict s.prim.verify s.reg.crc then ret .nothing s else raise .crcMismatch s

/-- `mifare_transceive(payload, ignore_timeout)`: the CRC first (44_session R250). -/
def enterMifare (payload : List Byte) (ignoreTimeout : Bool) (s : State) : Flow :=
  startFrame .r250 payload .ackb false
    { s with arg := { s.arg with payload := payload, ignoreTimeout := ignoreTimeout } }

/-- The CRC is there: ACKB cleared, exchange (44_session R250). -/
def mifareCrcDone (r : Res) (s : State) : Flow :=
  match r with
  | .err e => raise e s
  | .ok _ =>
    let s := appendCrcToTxb s
    enterExecute (push .r251 { s with reg := { s.reg with ackb := [0] } })

/-- ACK and NAK (44_session R251): `recv_len` and `rx_last_bits` of the exchange are N and RXLAST. -/
def ackOrNak (s : State) : Flow :=
  if s.reg.n ≠ 1 ∨ s.reg.rxlast ≠ 4 then raise .protocolError s
  else if s.reg.ackb.getD 0 0 ≠ piccAck then raise .nack s
  else ret .nothing s

/-- The exchange of `mifare_transceive` ended (44_session R250 to R252). -/
def mifareDone (r : Res) (s : State) : Flow :=
  match r with
  | .ok _ => ackOrNak s
  | .err .timeout => if s.arg.ignoreTimeout then ret .nothing s else raise .timeout s
  | .err e => raise e s

/-- Both phases of a block write: the command with the address first (44_session R248). -/
def enterWriteBlock (addr : Byte) (data : List Byte) (s : State) : Flow :=
  enterMifare [piccWrite, addr] false (push .r248 { s with arg := { s.arg with data := data } })

/-- Phase 1 of a block write ended: phase 2 sends the data (44_session R248). -/
def writePhaseDone (r : Res) (s : State) : Flow :=
  match r with
  | .err e => raise e s
  | .ok _ => enterMifare s.arg.data false s

end Sys2Proof.Machine
end

