-- ==== Sys2Proof/Machine/ChipCommands.lean ====
section
/-! DEFINITION. Meanings of the PCDCMD rows: the block writes the whole command byte to Command
(30_encoding R85, R86). What the chip then does is the environment's (10_state R33). -/

namespace Sys2Proof.Machine

/-- One chip command: `WR(A_COMMAND, v)`. -/
def issueCommand (v : Byte) (s : State) : Flow :=
  onTx (.wr aCommand v) (fun _ s => ret .nothing s) s

/-- `CMD_IDLE` (41_crc R141). -/
def execCmdIdle (s : State) : Host.Outcome State Fault Refusal :=
  accept 0 { } (fun s => issueCommand s.cfg.cmdIdle s) s

/-- `CMD_CALCCRC` (41_crc R145). -/
def execCmdCalcCrc (s : State) : Host.Outcome State Fault Refusal :=
  accept 0 { } (fun s => issueCommand s.cfg.cmdCalcCrc s) s

/-- `CMD_TRANSCEIVE` (42_executor R166); the start-send step R167 is `execute`'s own. -/
def execCmdTransceive (s : State) : Host.Outcome State Fault Refusal :=
  accept 0 { } (fun s => issueCommand s.cfg.cmdTransceive s) s

/-- `CMD_MFAUTHENT` (44_session R242). -/
def execCmdMfAuthent (s : State) : Host.Outcome State Fault Refusal :=
  accept 0 { } (fun s => issueCommand s.cfg.cmdMfAuthent s) s

end Sys2Proof.Machine
end

