-- ==== Sys2Proof/Machine/Crc.lean ====
section
/-! DEFINITION. Meanings of `calculate_crc`, `append_crc`, `verify_crc` (41_crc). -/

namespace Sys2Proof.Machine

/-- `calculate_crc(buffer)` (R140): the steps R141 to R149 follow. -/
def execCalculateCrc (buffer : List Byte) (s : State) : Host.Outcome State Fault Refusal :=
  accept 0x01#8 { buffer := buffer } (enterCrc buffer) s

/-- `append_crc(frame)` (R151): a nested `calculate_crc`, then the frame with the two CRC bytes. -/
def execAppendCrc (frame : List Byte) (s : State) : Host.Outcome State Fault Refusal :=
  accept 0 { } (fun s => callCrc .r151 frame { s with reg := { s.reg with txb := frame } }) s

/-- `verify_crc(r)` (R152): a nested `calculate_crc` over all but the last two bytes, then the
comparison. -/
def execVerifyCrc (r : List Byte) (s : State) : Host.Outcome State Fault Refusal :=
  accept 0 { }
    (fun s => callCrc .r152 (r.take (r.length - 2)) { s with prim := { s.prim with verify := r } }) s

end Sys2Proof.Machine
end

