-- ==== Sys2Proof/Machine/Executor.lean ====
section
/-! DEFINITION. Meanings of `execute` and `transceive` (42_executor). -/

namespace Sys2Proof.Machine

/-- Where `recv` of a host call points (20_memory R54). -/
def hostTarget : Option (List Byte) → RecvTarget
  | none => .absent
  | some _ => .host

/-- The host's receive buffer with its initial contents, if it lends one (20_memory R54, R66). -/
def lendBuffer (recv : Option (List Byte)) (s : State) : State :=
  { s with host := { s.host with buf := recv.getD s.host.buf } }

/-- `execute(cmd, wait_flags, send, recv, tx_last_bits, rx_align, check_crc)` (R160): the steps R161
to R176 follow. -/
def execExecute (cmd waitFlags : Byte) (send : List Byte) (recv : Option (List Byte))
    (txLastBits rxAlign : Nat) (checkCrc : Bool) (s : State) : Host.Outcome State Fault Refusal :=
  accept 0x02#8
    { cmd := cmd, waitFlags := waitFlags, send := send, recv := recv, txLastBits := txLastBits,
      rxAlign := rxAlign, checkCrc := checkCrc }
    (fun s =>
      enterExecute
        (latchExchange cmd waitFlags send (hostTarget recv) txLastBits rxAlign checkCrc
          (lendBuffer recv s))) s

/-- `transceive(send, recv, tx_last_bits, rx_align, check_crc)` (R177). -/
def execTransceive (send : List Byte) (recv : Option (List Byte)) (txLastBits rxAlign : Nat)
    (checkCrc : Bool) (s : State) : Host.Outcome State Fault Refusal :=
  accept 0x03#8
    { send := send, recv := recv, txLastBits := txLastBits, rxAlign := rxAlign,
      checkCrc := checkCrc }
    (fun s =>
      enterExecute
        (latchTransceive send (hostTarget recv) txLastBits rxAlign checkCrc (lendBuffer recv s))) s

end Sys2Proof.Machine
end

