-- ==== Sys2Proof/Machine/Select.lean ====
section
/-! DEFINITION. Meanings of `activate`, `select`, `halt` (43_select). -/

namespace Sys2Proof.Machine

/-- `activate(uid_hint, specific)` (R191): the argument check comes before any transaction
(60_exceptions R278, 92 D23; log 13), then REQA. -/
def execActivate (uidHint : Option Uid) (specific : Bool) (s : State) :
    Host.Outcome State Fault Refusal :=
  accept 0x10#8 { uidHint := uidHint, specific := specific }
    (fun s =>
      if selectArgsLegal uidHint specific then sendReqa s else raise .invalidArgument s) s

/-- `select(uid_hint, specific)` (R199). -/
def execSelect (uidHint : Option Uid) (specific : Bool) (s : State) :
    Host.Outcome State Fault Refusal :=
  accept 0x11#8 { uidHint := uidHint, specific := specific } enterSelect s

/-- `halt()` (R223): the CRC of `[PICC_HLTA, HLTA_ARG]` first. -/
def execHalt (s : State) : Host.Outcome State Fault Refusal :=
  accept 0x12#8 { }
    (fun s =>
      callCrc .r223 [piccHlta, s.cfg.hltaArg]
        { s with reg := { s.reg with txb := [piccHlta, s.cfg.hltaArg] } }) s

end Sys2Proof.Machine
end

