-- ==== Sys2Proof/Machine/Session.lean ====
section
/-! DEFINITION. Meanings of the authentication session and of the MIFARE operations (44_session). -/

namespace Sys2Proof.Machine

/-- `authenticate` with the command byte of the selected key (R240 to R242): argument check, frame,
`execute` with `CMD_MFAUTHENT`, waiting for Idle, no receive buffer. -/
def startAuthenticate (cmd : Byte) (uid : Uid) (key : List Byte) (block : Byte) (s : State) : Flow :=
  if uidSizeLegal uid.size && key.length == 6 then
    enterExecute
      (latchExchange s.cfg.cmdMfAuthent s.cfg.irqIdle (authFrame cmd block key (uidTail uid)) .absent
        0 0 false s)
  else raise .invalidArgument s

/-- `authenticate_a(uid, key, block)` (R240). -/
def execAuthenticateA (uid : Uid) (key : List Byte) (block : Byte) (s : State) :
    Host.Outcome State Fault Refusal :=
  accept 0x20#8 { uid := uid, key := key, block := block } (startAuthenticate piccAuthA uid key block)
    s

/-- `authenticate_b(uid, key, block)` (R240). -/
def execAuthenticateB (uid : Uid) (key : List Byte) (block : Byte) (s : State) :
    Host.Outcome State Fault Refusal :=
  accept 0x21#8 { uid := uid, key := key, block := block } (startAuthenticate piccAuthB uid key block)
    s

/-- `stop_session()` (R246): `CLRBITS(A_STATUS2, ST2_CRYPTO1_ON)`. -/
def execStopSession (s : State) : Host.Outcome State Fault Refusal :=
  accept 0x22#8 { }
    (fun s =>
      .running (goto .r125r
        { s with prim := { s.prim with addr := aStatus2, mask := s.cfg.st2Crypto1On } })) s

/-- `read_block(addr, out)` (R247). -/
def execReadBlock (addr : Byte) (out : List Byte) (s : State) : Host.Outcome State Fault Refusal :=
  accept 0x30#8 { addr := addr, out := out }
    (fun s =>
      if out.length < 18 then raise .invalidArgument s
      else startFrame .r94 [piccRead, addr] .host true { s with host := { s.host with buf := out } }) s

/-- `write_block(addr, data)` (R248). -/
def execWriteBlock (addr : Byte) (data : List Byte) (s : State) : Host.Outcome State Fault Refusal :=
  accept 0x31#8 { addr := addr, data := data }
    (fun s => if data.length ≠ 16 then raise .invalidArgument s else enterWriteBlock addr data s) s

/-- `write_page(page, data)` (R249). -/
def execWritePage (page : Byte) (data : List Byte) (s : State) : Host.Outcome State Fault Refusal :=
  accept 0x32#8 { page := page, data := data }
    (fun s =>
      if data.length ≠ 4 then raise .invalidArgument s
      else enterMifare (piccWriteUl :: page :: data) false s) s

/-- `mifare_transceive(payload, ignore_timeout)` (R250). -/
def execMifareTransceive (payload : List Byte) (ignoreTimeout : Bool) (s : State) :
    Host.Outcome State Fault Refusal :=
  accept 0x33#8 { payload := payload, ignoreTimeout := ignoreTimeout }
    (enterMifare payload ignoreTimeout) s

end Sys2Proof.Machine
end

