-- ==== Sys2Proof/Machine/TagFrames.lean ====
section
/-! DEFINITION. Meanings of the FRAME rows: the exchange of one tag frame as the operation that uses
it sends it (30_encoding R92 to R102), run on its own (log 8, log 24). -/

namespace Sys2Proof.Machine

/-- REQA (43_select R193): short frame, answer into ATQA. -/
def execReqa (s : State) : Host.Outcome State Fault Refusal :=
  accept 0 { } (fun s => enterExecute (latchShort piccReqa (clearAtqa s))) s

/-- WUPA (43_select R194): short frame, answer into ATQA. -/
def execWupa (s : State) : Host.Outcome State Fault Refusal :=
  accept 0 { } (fun s => enterExecute (latchShort piccWupa (clearAtqa s))) s

/-- A probe of one level on its own: the level initialised (43_select R201), the known bits in place,
then R205 and R206. -/
def probeFrame (level kb : Nat) (known : List Byte) (s : State) : Flow :=
  let s := levelInit { s with sel := { s.sel with level := level } }
  enterExecute
    (latchProbe { s with sel := { s.sel with buf := overlayAt s.sel.buf 2 known, kb := kb } })

/-- ANTICOLL_CL1 (43_select R205). -/
def execAnticollCl1 (kb : Nat) (known : List Byte) (s : State) : Host.Outcome State Fault Refusal :=
  accept 0 { } (probeFrame 0 kb known) s

/-- ANTICOLL_CL2 (43_select R205). -/
def execAnticollCl2 (kb : Nat) (known : List Byte) (s : State) : Host.Outcome State Fault Refusal :=
  accept 0 { } (probeFrame 1 kb known) s

/-- ANTICOLL_CL3 (43_select R205). -/
def execAnticollCl3 (kb : Nat) (known : List Byte) (s : State) : Host.Outcome State Fault Refusal :=
  accept 0 { } (probeFrame 2 kb known) s

/-- A SELECT of one level on its own: the five candidate bytes in BUF, then R212 to R215. -/
def selectFrame (level : Nat) (candidate : List Byte) (s : State) : Flow :=
  let s := levelInit { s with sel := { s.sel with level := level } }
  let buf := (overlayAt s.sel.buf 2 candidate).set 1 nvbSelect
  callCrc .r214 (buf.take 7) { s with sel := { s.sel with buf := buf, kb := 32 } }

/-- SELECT_CL1 (43_select R214). -/
def execSelectCl1 (b0 b1 b2 b3 bcc : Byte) (s : State) : Host.Outcome State Fault Refusal :=
  accept 0 { } (selectFrame 0 [b0, b1, b2, b3, bcc]) s

/-- SELECT_CL2 (43_select R214). -/
def execSelectCl2 (b0 b1 b2 b3 bcc : Byte) (s : State) : Host.Outcome State Fault Refusal :=
  accept 0 { } (selectFrame 1 [b0, b1, b2, b3, bcc]) s

/-- SELECT_CL3 (43_select R214). -/
def execSelectCl3 (b0 b1 b2 b3 bcc : Byte) (s : State) : Host.Outcome State Fault Refusal :=
  accept 0 { } (selectFrame 2 [b0, b1, b2, b3, bcc]) s

/-- HLTA (43_select R223): frame with CRC, no receive buffer; the remapping of R224 is `halt`'s. -/
def execHlta (s : State) : Host.Outcome State Fault Refusal :=
  accept 0 { } (fun s => startFrame .r94 [piccHlta, s.cfg.hltaArg] .absent false s) s

/-- An authentication frame on its own, through the chip's authentication command (30_encoding R101,
44_session R242). -/
def runAuthFrame (cmd block : Byte) (key tail : List Byte) (s : State) : Flow :=
  enterExecute
    (latchExchange s.cfg.cmdMfAuthent s.cfg.irqIdle (authFrame cmd block key tail) .absent 0 0 false
      s)

/-- MF_AUTH_KEY_A (44_session R241). -/
def execMfAuthKeyA (block : Byte) (key uidTail : List Byte) (s : State) :
    Host.Outcome State Fault Refusal :=
  accept 0 { } (runAuthFrame piccAuthA block key uidTail) s

/-- MF_AUTH_KEY_B (44_session R241). -/
def execMfAuthKeyB (block : Byte) (key uidTail : List Byte) (s : State) :
    Host.Outcome State Fault Refusal :=
  accept 0 { } (runAuthFrame piccAuthB block key uidTail) s

/-- MF_READ (44_session R247): the answer goes into a host buffer of 18 zero bytes (log 17). -/
def execMfRead (addr : Byte) (s : State) : Host.Outcome State Fault Refusal :=
  accept 0 { }
    (fun s =>
      startFrame .r94 [piccRead, addr] .host true
        { s with host := { s.host with buf := List.replicate 18 0 } }) s

/-- MF_WRITE (44_session R248): both phases. -/
def execMfWrite (addr : Byte) (data : List Byte) (s : State) : Host.Outcome State Fault Refusal :=
  accept 0 { } (enterWriteBlock addr data) s

/-- MF_WRITE_UL (44_session R249). -/
def execMfWriteUl (page : Byte) (data : List Byte) (s : State) : Host.Outcome State Fault Refusal :=
  accept 0 { } (enterMifare (piccWriteUl :: page :: data) false) s

end Sys2Proof.Machine
end

