-- ==== Sys2Proof/Machine/Transport.lean ====
section
/-! DEFINITION. Meanings of the REGTX rows and of SETBITS, CLRBITS, POLL (40_transport). Issued on
their own they are no host operation: OP stays 0x00 (log 8). -/

namespace Sys2Proof.Machine

/-- `RD(addr)` (R120): one single-byte read; the result is the byte. -/
def execRd (addr : Byte) (s : State) : Host.Outcome State Fault Refusal :=
  accept 0 { } (readThen addr (fun v s => ret (.byte v) s)) s

/-- `RDB(addr, n)` (R121): one bulk read; nothing is issued for no bytes (R128). -/
def execRdb (addr : Byte) (n : Nat) (s : State) : Host.Outcome State Fault Refusal :=
  accept 0 { }
    (fun s =>
      if bulkElided s.cfg n then ret (.bytes []) s
      else onTx (.rdb addr n) (fun bs s => ret (.bytes bs) s) s) s

/-- `WR(addr, v)` (R122): one single-byte write. -/
def execWr (addr v : Byte) (s : State) : Host.Outcome State Fault Refusal :=
  accept 0 { } (onTx (.wr addr v) (fun _ s => ret .nothing s)) s

/-- `WRB(addr, bytes)` (R123): one bulk write; nothing is issued for no bytes (R128). -/
def execWrb (addr : Byte) (bytes : List Byte) (s : State) : Host.Outcome State Fault Refusal :=
  accept 0 { }
    (fun s =>
      if bulkElided s.cfg bytes.length then ret .nothing s
      else onTx (.wrb addr bytes) (fun _ s => ret .nothing s) s) s

/-- `SETBITS(addr, m)` (R124): the read is the next step. -/
def execSetbits (addr mask : Byte) (s : State) : Host.Outcome State Fault Refusal :=
  accept 0 { }
    (fun s => .running (goto .r124r { s with prim := { s.prim with addr := addr, mask := mask } })) s

/-- `CLRBITS(addr, m)` (R125): the read is the next step. -/
def execClrbits (addr mask : Byte) (s : State) : Host.Outcome State Fault Refusal :=
  accept 0 { }
    (fun s => .running (goto .r125r { s with prim := { s.prim with addr := addr, mask := mask } })) s

/-- `POLL(addr, done_mask, fail_mask, deadline)` (R127): the time sample on entry is the next step. -/
def execPoll (addr doneMask failMask : Byte) (deadline : Nat) (s : State) :
    Host.Outcome State Fault Refusal :=
  accept 0 { }
    (fun s =>
      .running (goto .r127t
        { s with prim := { s.prim with addr := addr, doneMask := doneMask, failMask := failMask,
                                       deadline := deadline } })) s

end Sys2Proof.Machine
end

