-- ==== Sys2Proof/Machine/Dispatch.lean ====
section
/-! DEFINITION. The dispatch: one arm for each row of spec/opcode_table.json. -/

namespace Sys2Proof.Machine

def exec (i : Instr) (s : State) : Host.Outcome State Fault Refusal :=
  match i with
  -- HOSTOP (30_encoding R81)
  | .calculateCrc buffer => Sys2Proof.Machine.execCalculateCrc buffer s
  | .execute cmd waitFlags send recv txLastBits rxAlign checkCrc => Sys2Proof.Machine.execExecute cmd waitFlags send recv txLastBits rxAlign checkCrc s
  | .transceive send recv txLastBits rxAlign checkCrc => Sys2Proof.Machine.execTransceive send recv txLastBits rxAlign checkCrc s
  | .activate uidHint specific => Sys2Proof.Machine.execActivate uidHint specific s
  | .select uidHint specific => Sys2Proof.Machine.execSelect uidHint specific s
  | .halt => Sys2Proof.Machine.execHalt s
  | .authenticateA uid key block => Sys2Proof.Machine.execAuthenticateA uid key block s
  | .authenticateB uid key block => Sys2Proof.Machine.execAuthenticateB uid key block s
  | .stopSession => Sys2Proof.Machine.execStopSession s
  | .readBlock addr out => Sys2Proof.Machine.execReadBlock addr out s
  | .writeBlock addr data => Sys2Proof.Machine.execWriteBlock addr data s
  | .writePage page data => Sys2Proof.Machine.execWritePage page data s
  | .mifareTransceive payload ignoreTimeout => Sys2Proof.Machine.execMifareTransceive payload ignoreTimeout s
  -- REGTX (30_encoding R84)
  | .rd addr => Sys2Proof.Machine.execRd addr s
  | .rdb addr n => Sys2Proof.Machine.execRdb addr n s
  | .wr addr v => Sys2Proof.Machine.execWr addr v s
  | .wrb addr bytes => Sys2Proof.Machine.execWrb addr bytes s
  -- PSEUDO (30_encoding R112)
  | .setbits addr mask => Sys2Proof.Machine.execSetbits addr mask s
  | .clrbits addr mask => Sys2Proof.Machine.execClrbits addr mask s
  | .poll addr doneMask failMask deadline => Sys2Proof.Machine.execPoll addr doneMask failMask deadline s
  | .appendCrc frame => Sys2Proof.Machine.execAppendCrc frame s
  | .verifyCrc r => Sys2Proof.Machine.execVerifyCrc r s
  -- PCDCMD (30_encoding R86)
  | .cmdIdle => Sys2Proof.Machine.execCmdIdle s
  | .cmdCalcCrc => Sys2Proof.Machine.execCmdCalcCrc s
  | .cmdTransceive => Sys2Proof.Machine.execCmdTransceive s
  | .cmdMfAuthent => Sys2Proof.Machine.execCmdMfAuthent s
  -- FRAME (30_encoding R92 to R102)
  | .reqa => Sys2Proof.Machine.execReqa s
  | .wupa => Sys2Proof.Machine.execWupa s
  | .anticollCl1 kb known => Sys2Proof.Machine.execAnticollCl1 kb known s
  | .anticollCl2 kb known => Sys2Proof.Machine.execAnticollCl2 kb known s
  | .anticollCl3 kb known => Sys2Proof.Machine.execAnticollCl3 kb known s
  | .selectCl1 b0 b1 b2 b3 bcc => Sys2Proof.Machine.execSelectCl1 b0 b1 b2 b3 bcc s
  | .selectCl2 b0 b1 b2 b3 bcc => Sys2Proof.Machine.execSelectCl2 b0 b1 b2 b3 bcc s
  | .selectCl3 b0 b1 b2 b3 bcc => Sys2Proof.Machine.execSelectCl3 b0 b1 b2 b3 bcc s
  | .hlta => Sys2Proof.Machine.execHlta s
  | .mfAuthKeyA block key uidTail => Sys2Proof.Machine.execMfAuthKeyA block key uidTail s
  | .mfAuthKeyB block key uidTail => Sys2Proof.Machine.execMfAuthKeyB block key uidTail s
  | .mfRead addr => Sys2Proof.Machine.execMfRead addr s
  | .mfWrite addr data => Sys2Proof.Machine.execMfWrite addr data s
  | .mfWriteUl page data => Sys2Proof.Machine.execMfWriteUl page data s

end Sys2Proof.Machine
end

