-- ==== Sys2Proof/Machine/Sequencer.lean ====
section
/-! DEFINITION. The sequencer (10_state R24): what each step label does, where the result of a nested
operation goes, and one step of the operation in progress. -/

namespace Sys2Proof.Machine

/-! ## SETBITS, CLRBITS and POLL on their own (40_transport R124, R125, R127) -/

/-- `SETBITS`, `CLRBITS`: `v <- RD(addr)`. -/
def rmwRead (next : Seq) (s : State) : Flow :=
  readThen s.prim.addr
    (fun v s => .running (goto next { s with reg := { s.reg with scratch := v } })) s

/-- `SETBITS`: `WR(addr, v | m)` (R124). -/
def setbitsWrite (s : State) : Flow :=
  onTx (.wr s.prim.addr (s.reg.scratch ||| s.prim.mask)) (fun _ s => ret .nothing s) s

/-- `CLRBITS`: `WR(addr, v & ~m)` (R125). -/
def clrbitsWrite (s : State) : Flow :=
  onTx (.wr s.prim.addr (s.reg.scratch &&& ~~~s.prim.mask)) (fun _ s => ret .nothing s) s

/-- `POLL`: read (R127). -/
def pollOwnRead (s : State) : Flow :=
  pollRead s.prim.addr s.prim.doneMask s.prim.failMask .r127n (fun s => ret .nothing s) s

/-- The step at the label `s.seq`: one transaction or one time sample and the pure computation that
follows it (20_memory R62). 92 D45 puts that computation in the step of the following transaction: that
R62 is followed is the model's choice (DESIGN CHOICE, log 3); Laws/Granularity.lean has the other one and
proves that both show the same at the ports. -/
def stepLabel (s : State) : Flow :=
  match s.seq with
  | .idle => .running s
  | .r141 => crcIdle s
  | .r142 => crcClear s
  | .r143 => crcFlush s
  | .r144 => crcLoad s
  | .r145 => crcStart s
  | .r146 => crcMode s
  | .r147t => crcPollEnter s
  | .r147r => crcPollRead s
  | .r147n => crcPollTime s
  | .r148h => crcReadHigh s
  | .r148l => crcReadLow s
  | .r149 => crcFinish s
  | .r161 => exIdle s
  | .r162 => exClear s
  | .r163 => exFlush s
  | .r164 => exLoad s
  | .r165 => exFraming s
  | .r166 => exCommand s
  | .r167r => exStartRead s
  | .r167w => exStartWrite s
  | .r168t => exPollEnter s
  | .r168r => exPollRead s
  | .r168n => exPollTime s
  | .r169 => exError s
  | .r170 => exLength s
  | .r171 => exData s
  | .r172 => exControl s
  | .r209 => collisionRead s
  | .r124r => rmwRead .r124w s
  | .r124w => setbitsWrite s
  | .r125r => rmwRead .r125w s
  | .r125w => clrbitsWrite s
  | .r127t => pollEnter .r127r s
  | .r127r => pollOwnRead s
  | .r127n => pollTime s.prim.deadline .r127r s

/-- The rule at a return label takes the result of the nested operation (60_exceptions R279, R281:
the catching rules are these and no others). -/
def resume (l : Ret) (r : Res) (s : State) : Flow :=
  match l with
  | .r94 => frameCrcDone r s
  | .r151 => appendCrcDone r s
  | .r152 => verifyCrcDone r s
  | .r175 => exCrcDone r s
  | .r193 => reqaDone r s
  | .r194 => wupaDone r s
  | .r195 => .done r s
  | .r206 => probeDone r s
  | .r213 => selectCrcDone r s
  | .r214 => selectFrameCrcDone r s
  | .r215 => selectDone r s
  | .r223 => haltCrcDone r s
  | .r224 => haltDone r s
  | .r248 => writePhaseDone r s
  | .r250 => mifareCrcDone r s
  | .r251 => mifareDone r s

/-- An operation ended with `r`: its result goes up the return stack until a rule continues, or to
the result port (60_exceptions R279, R280). While an outer operation goes on, ERRSNAP, whose lifetime is
one `execute` (10_state R27), and the other registers of the ended one keep their last values: the
model's choice (DESIGN CHOICE, log 29). -/
def unwind : List Ret → Res → State → State
  | [], r, s => deliver r s
  | l :: rest, r, s =>
    match resume l r { s with stack := rest } with
    | .running s' => s'
    | .done r' s' => unwind rest r' s'

/-- The state after the pure computation of a step. -/
def settle : Flow → State
  | .running s => s
  | .done r s => unwind s.stack r s

/-- One step of the operation in progress. -/
def advance (s : State) : State := settle (stepLabel s)

end Sys2Proof.Machine
end

