-- ==== Sys2Proof/Machine/Step.lean ====
section
/-! DEFINITION. One step of the machine (10_state R24, 20_memory R62, 60_exceptions R291). -/

namespace Sys2Proof.Machine

/-- The next operation is taken from the command port, decoded and issued. A host code outside the
table ends with `Err(InvalidArgument)` (30_encoding R83). -/
def takeOffer (o : Offer) (rest : List Offer) (s : State) : Host.Outcome State Fault Refusal :=
  let s := { s with host := { s.host with port := rest } }
  match decode s.cfg o with
  | .instr i => exec i s
  | .reject (.hostCode code) => .next (refuseCode code s)
  | .reject r => .refused (.notAnEncoding r)

/-- One step. An operation in progress makes its next step; at `IDLE` the operation offered next is
taken; at `IDLE` with nothing offered nothing happens (log 7). -/
def step (s : State) : Host.Outcome State Fault Refusal :=
  if s.seq = .idle then
    match s.host.port with
    | [] => .next s
    | o :: rest => takeOffer o rest s
  else .next (advance s)

/-- The state whose very next step takes the instruction of a word of the opcode table: its offer
stands first on the command port and no operation is in progress. -/
def State.withFetchWord (s : State) (nbits w : Nat) : State :=
  { s with
    seq := .idle
    stack := []
    host := { s.host with port := offerOfTableWord nbits w :: s.host.port } }

end Sys2Proof.Machine
end

