-- ==== Sys2Proof/Safety.lean ====
section
/-! DEFINITION. The terms the claims are written in: runs, the invariant of the machine, the
environment's answers and the history of a nested operation written out. -/

namespace Sys2Proof.Machine

/-! ## Runs -/

/-- `k` steps lead from `s` to `t`, with no stop. -/
def Reaches (k : Nat) (s t : State) : Prop := Host.Core.run Sys2Proof.core k s = .next t

/-- The instruction is issued, and `k` further steps lead to `t`. -/
def RunsTo (i : Instr) (s : State) (k : Nat) (t : State) : Prop :=
  ∃ s₁, exec i s = .next s₁ ∧ Reaches k s₁ t

/-- A safe state: the next step does not stop. -/
def SafeNow (s : State) : Prop := ∃ t, step s = .next t

/-! ## The invariant -/

/-- What may stand on the return stack below an operation of the Select engine. -/
abbrev selectCallers : List (List Ret) := [[], [.r195]]

/-- What may stand on the return stack during an exchange (10_state R24). -/
abbrev executeCallers : List (List Ret) :=
  [[], [.r193], [.r194], [.r206], [.r206, .r195], [.r215], [.r215, .r195], [.r224], [.r251],
    [.r251, .r248]]

/-- What may stand on the return stack during a CRC computation (10_state R24). -/
abbrev crcCallers : List (List Ret) :=
  [[], [.r94], [.r151], [.r152], [.r213], [.r213, .r195], [.r214], [.r223], [.r250], [.r250, .r248]]
    ++ executeCallers.map (.r175 :: ·)

/-- The return stacks that go with a step label. -/
def callersAt : Seq → List (List Ret)
  | .r141 | .r142 | .r143 | .r144 | .r145 | .r146 | .r147t | .r147r | .r147n | .r148h | .r148l
  | .r149 => crcCallers
  | .r161 | .r162 | .r163 | .r164 | .r165 | .r166 | .r167r | .r167w | .r168t | .r168r | .r168n
  | .r169 | .r170 | .r171 | .r172 => executeCallers
  | .r209 => selectCallers
  | .idle | .r124r | .r124w | .r125r | .r125w | .r127t | .r127r | .r127n => [[]]

/-- The state SELSTATE is in at a step label with a return stack (43_select R222). -/
def selStateAt (seq : Seq) (stack : List Ret) : SelState :=
  if seq = .r209 then .colliding
  else if .r206 ∈ stack then .probing
  else if .r213 ∈ stack ∨ .r215 ∈ stack then .selecting
  else .idle

/-- The step labels of `execute`. -/
def isExchange : Seq → Bool
  | .r161 | .r162 | .r163 | .r164 | .r165 | .r166 | .r167r | .r167w | .r168t | .r168r | .r168n
  | .r169 | .r170 | .r171 | .r172 => true
  | .idle | .r141 | .r142 | .r143 | .r144 | .r145 | .r146 | .r147t | .r147r | .r147n | .r148h
  | .r148l | .r149 | .r209 | .r124r | .r124w | .r125r | .r125w | .r127t | .r127r | .r127n => false

/-- An exchange is running, or latched and waiting for the CRC of its frame (30_encoding R94,
44_session R250). -/
def InExchange (s : State) : Prop := isExchange s.seq = true ∨ .r94 ∈ s.stack ∨ .r250 ∈ s.stack

/-- The ranges and shapes of the registers (10_state R21, R29) and the canonical record. -/
structure RegsOk (s : State) : Prop where
  memory : Memory.wf s.chip.written
  buf : s.sel.buf.length = 9
  sakb : s.sel.sakb.length = 3
  atqa : s.sel.atqa.length = 2
  ackb : s.reg.ackb.length = 1
  uid : s.sel.uidAcc.bytes.length = 10
  kb : s.sel.kb ≤ 32
  att : s.sel.att ≤ s.cfg.maxProbes
  level : s.sel.level ≤ 2
  collpos : s.sel.collpos ≤ 32
  n : s.reg.n ≤ 127
  rxlast : s.reg.rxlast ≤ 7
  time : s.reg.t0 ≤ s.env.now
  fields : s.cfg.FieldsFit

/-- Between two operations: no operation in progress, nothing nested, and no working register that
survived (10_state R22; that a discarded register holds its reset value is the model's choice,
log 23). -/
structure AtRest (s : State) : Prop where
  seq : s.seq = .idle
  stack : s.stack = []
  op : s.op = 0
  arg : s.arg = { }
  prim : s.prim = { }
  recvTarget : s.recvTarget = .absent
  reg : s.reg = { }
  sel : s.sel = { }

/-- The invariant every step keeps: registers in range; a return stack that the rules allow at the
step label (10_state R24); SELSTATE as R222 says; working registers that survive no operation
(10_state R22); an empty result port while an operation is in progress (log 28); in every operation
but `execute` (0x02) and `transceive` (0x03) framing counts that fit their fields (42_executor R179),
and in every operation but `execute` a chip command of 30_encoding R86; the labels of the primitives
reached by no host operation but `stop_session` (0x22), which works on Status2 (44_session R246). -/
structure StateInv (s : State) : Prop where
  regs : RegsOk s
  chain : s.stack ∈ callersAt s.seq
  selState : s.sel.state = selStateAt s.seq s.stack
  rest : s.seq = .idle → AtRest s
  busy : s.seq ≠ .idle → s.host.result = none
  framing : InExchange s → s.op ∉ [0x02#8, 0x03#8] → s.arg.txLastBits ≤ 7 ∧ s.arg.rxAlign ≤ 7
  command : InExchange s → s.op ≠ 0x02#8 →
    s.arg.cmd = s.cfg.cmdTransceive ∨ s.arg.cmd = s.cfg.cmdMfAuthent
  primitive : s.seq ∈ [.r124r, .r124w, .r127t, .r127r, .r127n] → s.op = 0
  session : s.seq ∈ [.r125r, .r125w] → s.op ≠ 0 →
    s.op = 0x22#8 ∧ s.prim.addr = aStatus2 ∧ s.prim.mask = s.cfg.st2Crypto1On

/-! ## The environment's side, written out

Answers are listed in the order of the transactions; histories are newest first, as in `log`. -/

/-- A write that returns. -/
abbrev wrote : Answer := .ok []

/-- A single read answered with `b`. -/
abbrev gave (b : Byte) : Answer := .ok [b]

/-- A write in the history. -/
abbrev evW (a v : Byte) : Event := .tx (.wr a v) (some [])

/-- A single read in the history. -/
abbrev evR (a v : Byte) : Event := .tx (.rd a) (some [v])

/-- Answer to the bulk write of `bs`, if it is issued (40_transport R128). -/
def loadAnswers (c : Config) (bs : List Byte) : List Answer :=
  if bulkElided c bs.length then [] else [wrote]

/-- That bulk write in the history. -/
def loadEvents (c : Config) (bs : List Byte) : List Event :=
  if bulkElided c bs.length then [] else [.tx (.wrb aFifoData bs) (some [])]

/-- Answer to the bulk read that brings `bs`, if it is issued (40_transport R128). -/
def fetchAnswers (c : Config) (bs : List Byte) : List Answer :=
  if bulkElided c bs.length then [] else [.ok bs]

/-- That bulk read in the history. -/
def fetchEvents (c : Config) (bs : List Byte) : List Event :=
  if bulkElided c bs.length then [] else [.tx (.rdb aFifoData bs.length) (some bs)]

/-- What a `calculate_crc` reads, when its first poll read completes: Mode, DivIrq, CrcResultH,
CrcResultL (41_crc R146 to R148). -/
structure CrcReads where
  mode : Byte
  poll : Byte
  high : Byte
  low : Byte
  deriving DecidableEq, Repr

/-- The first poll read has the CRC-done flag (41_crc R147). -/
abbrev CrcReads.Completes (x : CrcReads) (c : Config) : Prop := anyBit x.poll c.divIrqCrc = true

/-- The CRC these reads give (41_crc R148). -/
def CrcReads.value (x : CrcReads) (c : Config) : Word16 :=
  assembleCrc c (msbFirst c x.mode) x.high x.low

/-- `payload` with the CRC appended, low byte first (41_crc R151). -/
def CrcReads.frame (x : CrcReads) (c : Config) (payload : List Byte) : List Byte :=
  payload ++ crcBytes (x.value c)

/-- The answers to `calculate_crc(buffer)` (41_crc R141 to R149). -/
def crcAnswers (c : Config) (buffer : List Byte) (x : CrcReads) : List Answer :=
  [wrote, wrote, wrote] ++ loadAnswers c buffer ++
    [wrote, gave x.mode, gave x.poll, gave x.high, gave x.low, wrote]

/-- The history of that computation; `t` is the time sample on entry to the poll. -/
def crcEvents (c : Config) (buffer : List Byte) (x : CrcReads) (t : Nat) : List Event :=
  [evW aCommand c.cmdIdle, evR aCrcResultL x.low, evR aCrcResultH x.high, evR aDivIrq x.poll,
    .now t, evR aMode x.mode, evW aCommand c.cmdCalcCrc] ++ loadEvents c buffer ++
    [evW aFifoLevel c.fifoFlush, evW aDivIrq c.divIrqCrc, evW aCommand c.cmdIdle]

/-- What an `execute` reads, when its first poll read completes: BitFraming (for Transceive only),
ComIrq, Error, and, with a receive buffer, FifoLevel, FifoData, Control (42_executor R167 to R172). -/
structure ExReads where
  framing : Byte
  poll : Byte
  error : Byte
  level : Byte := 0
  bytes : List Byte := []
  control : Byte := 0
  deriving DecidableEq, Repr

/-- The bits of Error that are a `ProtocolError` (42_executor R169). -/
abbrev protocolMask (c : Config) : Byte := c.errWrite ||| c.errOverflow ||| c.errParity ||| c.errProtocol

/-- The first poll read has a wait flag, and the snapshot has neither a protocol-class bit nor the
collision bit (42_executor R168, R169, R173). -/
abbrev ExReads.Completes (x : ExReads) (c : Config) (waitFlags : Byte) : Prop :=
  anyBit x.poll waitFlags = true ∧ (errFlags c x.error).protocolClass = false ∧
    (errFlags c x.error).collision = false

/-- FifoLevel tells how many bytes came, and they fit a buffer of `cap` bytes (42_executor R170). -/
abbrev ExReads.Fits (x : ExReads) (c : Config) (cap : Nat) : Prop :=
  fifoCount c x.level = x.bytes.length ∧ x.bytes.length ≤ cap

/-- `wait_flags` of `transceive` (30_encoding R87). -/
abbrev transceiveFlags (c : Config) : Byte := c.irqRx ||| c.irqIdle

/-- The answers to step 7 of `execute`, which only Transceive has (42_executor R167). -/
def startAnswers (c : Config) (cmd : Byte) (x : ExReads) : List Answer :=
  if cmd = c.cmdTransceive then [gave x.framing, wrote] else []

/-- Step 7 in the history. -/
def startEvents (c : Config) (cmd : Byte) (x : ExReads) : List Event :=
  if cmd = c.cmdTransceive then
    [evW aBitFraming (x.framing ||| c.bfStartSend), evR aBitFraming x.framing]
  else []

/-- The answers to the steps 1 to 8 of `execute` (42_executor R161 to R168). -/
def sendAnswers (c : Config) (cmd : Byte) (send : List Byte) (x : ExReads) : List Answer :=
  [wrote, wrote, wrote] ++ loadAnswers c send ++ [wrote, wrote] ++ startAnswers c cmd x ++
    [gave x.poll]

/-- The steps 1 to 8 in the history; `t` is the time sample on entry to the poll. -/
def sendEvents (c : Config) (cmd : Byte) (send : List Byte) (rxAlign txLastBits : Nat) (x : ExReads)
    (t : Nat) : List Event :=
  [evR aComIrq x.poll, .now t] ++ startEvents c cmd x ++
    [evW aCommand cmd, evW aBitFraming (bitFraming c rxAlign txLastBits)] ++ loadEvents c send ++
    [evW aFifoLevel c.fifoFlush, evW aComIrq c.comIrqClear, evW aCommand c.cmdIdle]

/-- The answers to the steps 9 to 12 of `execute` with a receive buffer (42_executor R169 to R172). -/
def recvAnswers (c : Config) (x : ExReads) : List Answer :=
  [gave x.error, gave x.level] ++ fetchAnswers c x.bytes ++ [gave x.control]

/-- The steps 9 to 12 in the history. -/
def recvEvents (c : Config) (x : ExReads) : List Event :=
  [evR aControl x.control] ++ fetchEvents c x.bytes ++ [evR aFifoLevel x.level, evR aError x.error]

/-- The answers to an exchange with a receive buffer and without CRC check. -/
def exchangeAnswers (c : Config) (cmd : Byte) (send : List Byte) (x : ExReads) : List Answer :=
  sendAnswers c cmd send x ++ recvAnswers c x

/-- That exchange in the history. -/
def exchangeEvents (c : Config) (cmd : Byte) (send : List Byte) (rxAlign txLastBits : Nat)
    (x : ExReads) (t : Nat) : List Event :=
  recvEvents c x ++ sendEvents c cmd send rxAlign txLastBits x t

/-- The answers to an exchange without a receive buffer. -/
def silentAnswers (c : Config) (cmd : Byte) (send : List Byte) (x : ExReads) : List Answer :=
  sendAnswers c cmd send x ++ [gave x.error]

/-- That exchange in the history. -/
def silentEvents (c : Config) (cmd : Byte) (send : List Byte) (rxAlign txLastBits : Nat)
    (x : ExReads) (t : Nat) : List Event :=
  evR aError x.error :: sendEvents c cmd send rxAlign txLastBits x t

/-- The answers to an exchange with CRC check: the nested `calculate_crc` is over `checked`
(42_executor R175). -/
def checkedAnswers (c : Config) (cmd : Byte) (send : List Byte) (x : ExReads)
    (checked : List Byte) (k : CrcReads) : List Answer :=
  exchangeAnswers c cmd send x ++ crcAnswers c checked k

/-- That exchange in the history; `t` and `t'` are the time samples. -/
def checkedEvents (c : Config) (cmd : Byte) (send : List Byte) (rxAlign txLastBits : Nat)
    (x : ExReads) (t : Nat) (checked : List Byte) (k : CrcReads) (t' : Nat) : List Event :=
  crcEvents c checked k t' ++ exchangeEvents c cmd send rxAlign txLastBits x t

/-- `execute`, or `transceive`, which is `execute` with the command Transceive and the wait flags
{Rx, Idle} (42_executor R177): the instruction, and what it works from. -/
abbrev ExchangeCall (c : Config) (i : Instr) (cmd waitFlags : Byte) (send : List Byte)
    (recv : Option (List Byte)) (txLastBits rxAlign : Nat) (checkCrc : Bool) : Prop :=
  i = .execute cmd waitFlags send recv txLastBits rxAlign checkCrc ∨
    (i = .transceive send recv txLastBits rxAlign checkCrc ∧ cmd = c.cmdTransceive ∧
      waitFlags = transceiveFlags c)

/-! ### One cascade level of `select` -/

/-- What one cascade level reads, when its only probe does not collide: the probe, the CRC of the
SELECT frame, the SELECT exchange whose answer is `sak` and its CRC, the CRC check (43_select R205 to
R216). -/
structure LevelReads where
  probe : ExReads
  crc : CrcReads
  select : ExReads
  sak : Byte
  check : CrcReads
  deriving DecidableEq, Repr

/-- The five candidate bytes of a level: the hint's bytes and their BCC when `specific`, else what the
probe brought, laid over zeros (43_select R201, R202, R206). -/
def LevelReads.candidate (r : LevelReads) (hint : Option Uid) (l : Nat) : List Byte :=
  match hint with
  | some u => knownBytes u l ++ [bccOf (knownBytes u l)]
  | none => overlay [0, 0, 0, 0, 0] r.probe.bytes

/-- The first seven bytes of the SELECT frame of a level (43_select R212, R213). -/
def LevelReads.payload (r : LevelReads) (c : Config) (hint : Option Uid) (l : Nat) : List Byte :=
  c.selCl l :: nvbSelect :: r.candidate hint l

/-- The polls complete, the answers fit, the SELECT is answered with a SAK and its CRC. -/
structure LevelReads.Ok (r : LevelReads) (c : Config) : Prop where
  probe : r.probe.Completes c (transceiveFlags c)
  probeFits : r.probe.Fits c 5
  crc : r.crc.Completes c
  select : r.select.Completes c (transceiveFlags c)
  selectFits : r.select.Fits c 3
  answer : r.select.bytes = r.check.frame c [r.sak]
  whole : rxLastCount c r.select.control = 0
  check : r.check.Completes c

/-- The answers to one level. -/
def LevelReads.answers (r : LevelReads) (c : Config) (hint : Option Uid) (l : Nat) : List Answer :=
  (if hint.isSome then [] else exchangeAnswers c c.cmdTransceive [c.selCl l, nvbOf 0] r.probe) ++
    (crcAnswers c (r.payload c hint l) r.crc ++
      checkedAnswers c c.cmdTransceive (r.crc.frame c (r.payload c hint l)) r.select [r.sak] r.check)

/-- One level in the history; `tm` gives the time samples on entry to its poll loops. -/
def LevelReads.events (r : LevelReads) (c : Config) (hint : Option Uid) (l : Nat) (tm : Nat → Nat) :
    List Event :=
  checkedEvents c c.cmdTransceive (r.crc.frame c (r.payload c hint l)) 0 0 r.select (tm (4 * l + 2))
      [r.sak] r.check (tm (4 * l + 3)) ++
    (crcEvents c (r.payload c hint l) r.crc (tm (4 * l + 1)) ++
      (if hint.isSome then []
       else exchangeEvents c c.cmdTransceive [c.selCl l, nvbOf 0] 0 0 r.probe (tm (4 * l))))

/-- The answers to the levels from `l` on. -/
def levelsAnswers (c : Config) (hint : Option Uid) : Nat → List LevelReads → List Answer
  | _, [] => []
  | l, r :: rs => r.answers c hint l ++ levelsAnswers c hint (l + 1) rs

/-- The levels from `l` on in the history. -/
def levelsEvents (c : Config) (hint : Option Uid) (tm : Nat → Nat) : Nat → List LevelReads → List Event
  | _, [] => []
  | l, r :: rs => levelsEvents c hint tm (l + 1) rs ++ r.events c hint l tm

/-- The UID the levels from `l` on add up to (43_select R217, R220). -/
def levelsUid (c : Config) (hint : Option Uid) (u : Uid) : Nat → List LevelReads → Uid
  | _, [] => u
  | l, r :: rs =>
    levelsUid c hint
      { copyLevel l (r.payload c hint l) u with
        size := 3 * (l + 1) + 1, sak := r.sak, piccType := piccTypeOf c r.sak } (l + 1) rs

/-- A sequence of levels `select` goes through to the end: one to three, the cascade bit set in the
SAK of each but the last (43_select R200, R218). -/
structure LevelsOk (c : Config) (ls : List LevelReads) : Prop where
  count : 1 ≤ ls.length ∧ ls.length ≤ maxLevels
  ok : ∀ r ∈ ls, r.Ok c
  more : ∀ r ∈ ls.dropLast, anyBit r.sak sakNotComplete = true
  last : ∀ r ∈ ls.getLast?, anyBit r.sak sakNotComplete = false

/-! ### The end of an operation -/

/-- The register record after a history: the acknowledged writes put in order. -/
def chipAfter (c : Config) (ch : ChipSide) (events : List Event) : ChipSide :=
  events.foldr
    (fun e ch =>
      match e with
      | .tx t (some _) => ch.put c t
      | .tx _ none => ch
      | .now _ => ch) ch

/-- `t` is the end of an operation begun in `s`: at rest, no working register kept (10_state R22), with
the result `r` on the port, the history grown by `events`, the register record as those events make it
(every other byte of it unchanged), the configuration and the command port as they were, and `rest` of
the environment's answers left. -/
structure Ends (s t : State) (r : Res) (events : List Event) (rest : List Answer) : Prop where
  atRest : AtRest t
  result : t.host.result = some r
  log : t.log = events ++ s.log
  chip : t.chip = chipAfter s.cfg s.chip events
  answers : t.env.answers = rest
  cfg : t.cfg = s.cfg
  port : t.host.port = s.host.port

/-- The host's two output counts (20_memory R54). -/
structure Outputs (t : State) (recvLen rxLastBits : Nat) : Prop where
  recvLen : t.host.recvLen = recvLen
  rxLastBits : t.host.rxLastBits = rxLastBits

/-- The host's buffer and outputs are as they were: with `Ends`, which fixes the result, the command
port and every register of the block, the frame of an operation that hands the host nothing else. -/
structure HostKept (s t : State) : Prop where
  buf : t.host.buf = s.host.buf
  outputs : Outputs t s.host.recvLen s.host.rxLastBits

end Sys2Proof.Machine
end

