-- ==== Sys2Proof/Certificates/Slice0/Obligations.lean ====
section
/-! DEFINITION. The statements for the provers, from the numbered rules of spec/. A statement about an
operation that completes is about every state at `IDLE` and every operand; the environment's answers
to its transactions are a hypothesis on the state (20_memory R58), what follows them is `rest`. That
working registers are discarded at the end, which `AtRest` and `Ends` say, is 10_state R22; the values
they then hold are the model's choice (log 23). Where a statement gives a whole state, two more choices
stand in it: the pure computation belongs to the step before it (log 3), and the registers of a nested
operation keep their values after its end (log 29). -/

open Sys2Proof Sys2Proof.Machine

/-! ## Encodings -/

/-- Words written out from spec/opcode_table.json and 30_encoding R81, R86, R92 to R102 decode to the
instructions they stand for. The chip command and SEL values are those of the default configuration
(log 6), a bare word has its operands filled with zeros and a byte that two formats share is the host
operation's (log 9), and the frames of HLTA, READ and WRITE_UL stand without their CRC (log 10): these
are the model's choices. -/
def Obligations.TableWordsDecode : Prop :=
  decodeTableWord 8 0x01 = some (.calculateCrc []) ∧
    decodeTableWord 8 0x03 = some (.transceive [] none 0 0 false) ∧
    decodeTableWord 8 0x12 = some .halt ∧
    decodeTableWord 8 0x30 = some (.readBlock 0 []) ∧
    decodeTableWord 8 0x33 = some (.mifareTransceive [] false) ∧
    decodeTableWord 8 0x0C = some .cmdTransceive ∧
    decodeTableWord 8 0x0E = some .cmdMfAuthent ∧
    decodeTableWord 8 0x26 = some .reqa ∧
    decodeTableWord 8 0x52 = some .wupa ∧
    decodeTableWord 16 0x9370 = some (.selectCl1 0 0 0 0 0) ∧
    decodeTableWord 16 0x9770 = some (.selectCl3 0 0 0 0 0) ∧
    decode Config.default (.frame [0x95#8, 0x33#8, 0xC3#8, 0x05#8] 3) =
      .instr (.anticollCl2 11 [0xC3#8, 0x05#8]) ∧
    decode Config.default (.frame [0x50#8, 0x00#8] 0) = .instr .hlta ∧
    decode Config.default (.frame [0x30#8, 0x04#8] 0) = .instr (.mfRead 0x04#8) ∧
    decode Config.default (.frame [0xA2#8, 0x04#8, 0x01#8, 0x02#8, 0x03#8, 0x04#8] 0) =
      .instr (.mfWriteUl 0x04#8 [0x01#8, 0x02#8, 0x03#8, 0x04#8])

/-- Decoding the encoding of a well-formed instruction gives the instruction back, for every
configuration that tells the commands and the frames apart (30_encoding R81 to R102). -/
def Obligations.DecodeOfEncode : Prop :=
  ∀ (c : Config) (i : Instr), c.CommandsDistinct → c.FramesDistinct → i.wf = true →
    decode c (encode c i) = .instr i

/-- A frame that decodes is the encoding of what it decodes to, and that instruction is well formed:
no bit of a frame is dropped (30_encoding R92 to R102). -/
def Obligations.FrameIsItsEncoding : Prop :=
  ∀ (c : Config) (bytes : List Byte) (tx : Nat) (i : Instr),
    decode c (.frame bytes tx) = .instr i → encode c i = .frame bytes tx ∧ i.wf = true

/-- A host operation code outside the table: `Err(InvalidArgument)`, no transaction (30_encoding
R83). That the working registers then hold their reset values, which `AtRest` says, is the model's
choice (log 23). -/
def Obligations.UnknownHostCodeRefused : Prop :=
  ∀ (s : State) (code : Byte) (ports : Args) (rest : List Offer),
    s.seq = .idle → s.host.port = .hostop code ports :: rest → code ∉ hostCodes →
    ∃ t, step s = .next t ∧ t.host.result = some (.err .invalidArgument) ∧ AtRest t ∧
      t.log = s.log ∧ t.env = s.env ∧ t.chip = s.chip ∧ t.host.port = rest ∧ HostKept s t

/-- The collision position is the field of Coll, where 0 means bit 32, and lies in 1 to 32
(30_encoding R91). The width of the field is a hypothesis: it is 5 bits. -/
def Obligations.CollisionPositionMapping : Prop :=
  ∀ (c : Config) (v : Byte), c.collPosMask.toNat ≤ 31 →
    ((v &&& c.collPosMask).toNat = 0 → collisionPosition c v = 32) ∧
      ((v &&& c.collPosMask).toNat ≠ 0 → collisionPosition c v = (v &&& c.collPosMask).toNat) ∧
      1 ≤ collisionPosition c v ∧ collisionPosition c v ≤ 32

/-- NVB: whole valid bytes of the frame in the high nibble, further bits in the low nibble; the
decoder reads back every value of it (30_encoding R96). -/
def Obligations.NvbFormula : Prop :=
  (∀ kb : Nat, kb ≤ 32 →
    (nvbOf kb).toNat = (2 + kb / 8) * 16 + kb % 8 ∧ kbOfNvb (nvbOf kb) = some kb) ∧
    nvbOf 0 = 0x20#8 ∧ nvbOf 8 = 0x30#8 ∧ nvbOf 11 = 0x33#8 ∧ nvbOf 16 = 0x40#8 ∧
    nvbOf 20 = 0x44#8 ∧ nvbOf 31 = 0x57#8 ∧ nvbOf 32 = 0x60#8 ∧ nvbSelect = 0x70#8

/-- Splitting and joining a CRC: the low byte goes first in a frame, and a received pair stands for the
value whose low byte it begins with (30_encoding R106). -/
def Obligations.CrcSplitJoin : Prop :=
  (∀ w : Word16, (lo8 w).toNat = w.toNat % 256 ∧ (hi8 w).toNat = w.toNat / 256 ∧
    crcBytes w = [lo8 w, hi8 w] ∧ joinCrc (hi8 w) (lo8 w) = w) ∧
    ∀ a b : Byte, (joinCrc b a).toNat = b.toNat * 256 + a.toNat ∧ lo8 (joinCrc b a) = a ∧
      hi8 (joinCrc b a) = b

/-- The byte of the bit framing step has `rx_align` and `tx_last_bits` in their fields and the
start-send bit clear, at the default masks (30_encoding R88; the masks are the model's choice, log 6,
which follows 00_scope R8; that a count above 7 is masked into its field is 93 U8 as log 11 reads it). -/
def Obligations.BitFramingFields : Prop :=
  (∀ rxAlign txLastBits : Nat,
    (bitFraming Config.default rxAlign txLastBits).toNat = rxAlign % 8 * 16 + txLastBits % 8 ∧
      bitFraming Config.default rxAlign txLastBits &&& Config.default.bfStartSend = 0) ∧
    bitFraming Config.default 0 7 = 0x07#8 ∧ bitFraming Config.default 3 3 = 0x33#8

/-- The PICC type is decided by the bit tests in their order, then by the table (43_select R221). -/
def Obligations.PiccTypeOrder : Prop :=
  ∀ (c : Config) (sak : Byte),
    (sak &&& 0x04#8 ≠ 0 → piccTypeOf c sak = .notCompleted) ∧
      (sak &&& 0x04#8 = 0 → sak &&& 0x20#8 ≠ 0 → piccTypeOf c sak = .iso14443_4) ∧
      (sak &&& 0x04#8 = 0 → sak &&& 0x20#8 = 0 → sak &&& 0x40#8 ≠ 0 →
        piccTypeOf c sak = .iso18092) ∧
      (∀ t, sak &&& 0x64#8 = 0 → c.sakTable.lookup sak = some t → piccTypeOf c sak = t) ∧
      (sak &&& 0x64#8 = 0 → c.sakTable.lookup sak = none → piccTypeOf c sak = .unknown)

/-- The copy of a level's bytes into the UID undoes the known bytes of `specific`: from a UID of legal
size whose last level does not begin with the cascade tag, the levels of the hint give the UID back
(43_select R202, R217, R226; a byte that the record lacks is a free value, log 27). -/
def Obligations.KnownBytesCopyBack : Prop :=
  ∀ (c : Config) (u : Uid) (crc : List Byte), uidSizeLegal u.size = true →
    uidByte u (u.size - 4) ≠ cascadeTag →
    (((List.range ((u.size - 1) / 3)).foldl
      (fun acc l =>
        copyLevel l
          (c.selCl l :: nvbSelect :: (knownBytes u l ++ bccOf (knownBytes u l) :: crc)) acc)
      { }).bytes.take u.size) = (List.range u.size).map (uidByte u)

/-- Merging a received frame into the buffer: the low `rx_align` bits of the first byte are kept, its
other bits and every further byte are the received ones, what lies behind is kept (42_executor
R171; that a count above 7 is merged as it was given is log 11). -/
def Obligations.ReceiveMerge : Prop :=
  ∀ (rxAlign : Nat) (old d : List Byte), d.length ≤ old.length →
    (receivedInto rxAlign old d).length = old.length ∧
      (∀ k, d.length ≤ k → (receivedInto rxAlign old d).getD k 0 = old.getD k 0) ∧
      (∀ k, 1 ≤ k → k < d.length → (receivedInto rxAlign old d).getD k 0 = d.getD k 0) ∧
      (d ≠ [] → ∀ j, j < 8 →
        ((receivedInto rxAlign old d).getD 0 0).getLsbD j =
          if j < rxAlign then (old.getD 0 0).getLsbD j else (d.getD 0 0).getLsbD j)

/-! ## The step -/

/-- When the offer at the head of the command port decodes to an instruction, the step at `IDLE` is
`exec` of it, the offer taken (60_exceptions R291). -/
def Obligations.StepRunsDecoded : Prop :=
  ∀ (s : State) (o : Offer) (rest : List Offer) (i : Instr),
    s.seq = .idle → s.host.port = o :: rest → decode s.cfg o = .instr i →
    step s = exec i { s with host := { s.host with port := rest } }

/-- An operation is accepted only at `IDLE`: issued while another is in progress it has no step, and a
step of the operation in progress takes nothing from the command port and keeps the operation code
until the operation ends (60_exceptions R291). -/
def Obligations.AcceptsOnlyAtIdle : Prop :=
  ∀ s : State, s.seq ≠ .idle →
    (∀ i : Instr, exec i s = .fault .interleavedOperation) ∧
      ∃ t, step s = .next t ∧ t.host.port = s.host.port ∧ (t.seq ≠ .idle → t.op = s.op)

/-- `execute` and `transceive` run whatever their framing counts are: offered at `IDLE` they are
latched and stand before their first step; and the bit framing step writes the counts masked into
their fields (42_executor R160, R165, R177, 93 U8; that U8 and not R179 is followed is log 11, that
the result port is emptied here log 28). -/
def Obligations.FramingCountsRun : Prop :=
  (∀ (s : State) (i : Instr) (cmd w : Byte) (send : List Byte) (recv : Option (List Byte))
    (tx rx : Nat) (check : Bool) (rest : List Offer), s.seq = .idle →
    ExchangeCall s.cfg i cmd w send recv tx rx check → s.host.port = encode s.cfg i :: rest →
    ∃ t, step s = .next t ∧ t.seq = .r161 ∧ t.stack = [] ∧ t.host.port = rest ∧
      t.host.result = none ∧ t.host.buf = recv.getD s.host.buf ∧
      t.recvTarget = (if recv.isSome then .host else .absent) ∧ t.reg.txb = send ∧ t.arg.cmd = cmd ∧
      t.arg.waitFlags = w ∧ t.arg.txLastBits = tx ∧ t.arg.rxAlign = rx ∧ t.arg.checkCrc = check ∧
      t.log = s.log ∧ t.env = s.env ∧ t.chip = s.chip) ∧
    ∀ (s : State) (v : Byte) (rest : List Answer), s.seq = .r165 → s.env.answers = wrote :: rest →
      v = (BitVec.ofNat 8 (s.arg.rxAlign % 8) <<< s.cfg.bfRxAlignShift) |||
        (BitVec.ofNat 8 s.arg.txLastBits &&& s.cfg.bfTxLastMask) →
      ∃ t, step s = .next t ∧ t.seq = .r166 ∧ t.log = evW aBitFraming v :: s.log

/-- A step stops only at the command port, at `IDLE`, for a chip command or frame word that is no
encoding; every instruction has its step, whatever its operands (30_encoding R109; that such words
stop is the model's choice, log 22). -/
def Obligations.StopsOnlyAtPort : Prop :=
  ∀ s : State, (∀ t, step s ≠ .next t) →
    s.seq = .idle ∧ ∃ o rest r, s.host.port = o :: rest ∧ decode s.cfg o = .reject r ∧
      (∀ code, r ≠ .hostCode code) ∧ step s = .refused (.notAnEncoding r)

/-- What reset leaves: no operation in progress, SELSTATE `Idle`, an empty result port, no
transaction issued; and every operation is accepted at once (70_reset R300). -/
def Obligations.ResetReady : Prop :=
  State.reset.seq = .idle ∧ State.reset.sel.state = .idle ∧ State.reset.host.result = none ∧
    State.reset.log = [] ∧ ∀ i : Instr, ∃ t, exec i State.reset = .next t

/-- The invariant holds at reset (the ranges rest on the model's reset values, log 5, log 6). -/
def Obligations.ResetInv : Prop := StateInv State.reset

/-- Every step keeps the invariant, and with it a return stack of depth at most three (10_state R21,
R22, R24, 43_select R222, 42_executor R179; that discarded registers hold their reset values is
log 23, that the result port is empty while an operation is in progress log 28). -/
def Obligations.StepKeepsInv : Prop :=
  ∀ s t : State, StateInv s → step s = .next t → StateInv t ∧ t.stack.length ≤ 3

/-- No step changes the configuration record (70_reset R302). -/
def Obligations.ConfigFixed : Prop :=
  ∀ s t : State, step s = .next t → t.cfg = s.cfg

/-- A step of the operation in progress is exactly one transaction or one time sample; a step at
`IDLE` is at most one (20_memory R62). That taking an operation from the port is a step of its own, so
that a step at `IDLE` may be none, is the model's choice (log 3). -/
def Obligations.OneEventPerStep : Prop :=
  ∀ s t : State, step s = .next t →
    (s.seq ≠ .idle → ∃ e, t.log = e :: s.log) ∧
      (s.seq = .idle → t.log = s.log ∨ ∃ e, t.log = e :: s.log)

/-- Samples of the time port never decrease, and a time sample in the history is the clock's
(60_exceptions R285). -/
def Obligations.TimeNeverDecreases : Prop :=
  ∀ s t : State, step s = .next t →
    s.env.now ≤ t.env.now ∧
      ∀ n, t.log = .now n :: s.log → n = t.env.now

/-- Every transaction of a named operation is one of the accesses of the register table, and outside
`execute` the command written is one of the four (10_state R32, R33). SETBITS, CLRBITS and POLL run on
their own, whose address is an operand, are no named operations and have statements of their own. -/
def Obligations.AccessesOfTheBlock : Prop :=
  ∀ (s t : State) (x : Tx) (a : Option (List Byte)), StateInv s → s.seq ≠ .idle →
    (s.op = 0 → s.seq ∉ [.r124r, .r124w, .r125r, .r125w, .r127t, .r127r, .r127n]) →
    step s = .next t → t.log = .tx x a :: s.log →
    (∃ v, x = .wr aCommand v ∧
        (s.op ≠ 0x02#8 → v ∈ [s.cfg.cmdIdle, s.cfg.cmdCalcCrc, s.cfg.cmdTransceive,
          s.cfg.cmdMfAuthent])) ∨
      x = .wr aComIrq s.cfg.comIrqClear ∨ x = .wr aDivIrq s.cfg.divIrqCrc ∨
      x = .wr aFifoLevel s.cfg.fifoFlush ∨ (∃ v, x = .wr aBitFraming v) ∨
      (∃ v, x = .wr aStatus2 (v &&& ~~~s.cfg.st2Crypto1On)) ∨
      (∃ bs, x = .wrb aFifoData bs) ∨ (∃ n, x = .rdb aFifoData n ∧ n ≤ 127) ∨
      ∃ r, x = .rd r ∧ r ∈ [aComIrq, aDivIrq, aError, aStatus2, aFifoLevel, aControl, aBitFraming,
        aColl, aMode, aCrcResultH, aCrcResultL]

/-- Memory frame: a step changes the record of no register address but the one its transaction
writes; a step without an acknowledged write changes none and leaves the FIFO load alone
(20_memory R51, R60). The record is the model's own (log 4); that a failed transaction leaves it as it
was is the model's choice, since 40_transport R126 calls its effect unknown (log 19). -/
def Obligations.RecordFrame : Prop :=
  ∀ s t : State, step s = .next t →
    (∀ (x : Tx) (a : Option (List Byte)), t.log = .tx x a :: s.log →
      (∀ k, k ≠ x.addr.toNat → Memory.read t.chip.written k = Memory.read s.chip.written k) ∧
        (a = none → t.chip = s.chip) ∧ (a ≠ none → t.chip = s.chip.put s.cfg x)) ∧
      ((t.log = s.log ∨ ∃ n, t.log = .now n :: s.log) → t.chip = s.chip)

/-- The transitions of SELSTATE, `Complete` and `Exhausted` passed through inside a step (43_select
R222). -/
def Obligations.SelStateTransitions : Prop :=
  ∀ s t : State, StateInv s → step s = .next t → s.sel.state ≠ t.sel.state →
    (s.sel.state, t.sel.state) ∈
      [(.idle, .probing), (.idle, .selecting), (.probing, .selecting), (.probing, .colliding),
        (.probing, .idle), (.colliding, .probing), (.colliding, .idle), (.selecting, .idle),
        (.selecting, .probing)]

/-! ## Errors -/

/-- `TransportError` ends the operation at once and is caught only in the REQA exchange of
`activate`: no further transaction, nothing restored (40_transport R126, 60_exceptions R280). It does so
in the steps of an operation in progress and in the rows whose one transaction is made as they are
issued (R120 to R123, 30_encoding R86; that these run on their own is log 8, that RDB of more than 127 bytes is
one transaction log 27). That the record of the
register space stays as it was is the model's choice (log 4, log 19). -/
def Obligations.TransportErrorEnds : Prop :=
  (∀ (s t : State) (x : Tx), s.seq ≠ .idle → .r193 ∉ s.stack → step s = .next t →
    t.log = .tx x none :: s.log →
    AtRest t ∧ t.host.result = some (.err .transportError) ∧ t.chip = s.chip ∧ HostKept s t) ∧
    ∀ (s : State) (i : Instr) (x : Tx) (rest : List Answer), s.seq = .idle →
      s.env.answers = .transportError :: rest →
      (∃ a, i = .rd a ∧ x = .rd a) ∨
        (∃ a n, i = .rdb a n ∧ x = .rdb a n ∧ bulkElided s.cfg n = false) ∨
        (∃ a v, i = .wr a v ∧ x = .wr a v) ∨
        (∃ a bs, i = .wrb a bs ∧ x = .wrb a bs ∧ bulkElided s.cfg bs.length = false) ∨
        (i = .cmdIdle ∧ x = .wr aCommand s.cfg.cmdIdle) ∨
        (i = .cmdCalcCrc ∧ x = .wr aCommand s.cfg.cmdCalcCrc) ∨
        (i = .cmdTransceive ∧ x = .wr aCommand s.cfg.cmdTransceive) ∨
        (i = .cmdMfAuthent ∧ x = .wr aCommand s.cfg.cmdMfAuthent) →
      ∃ t, exec i s = .next t ∧ Ends s t (.err .transportError) [.tx x none] rest ∧ HostKept s t

/-- An error no rule catches goes unchanged through every operation that nests the failing one; no
transaction follows and nothing is restored (60_exceptions R279 to R281). -/
def Obligations.ErrorsPropagate : Prop :=
  ∀ (l : List Ret) (e : ExecError) (s : State),
    .r193 ∉ l →
    (e = .collision → .r194 ∉ l ∧ .r206 ∉ l) →
    (e = .timeout → .r224 ∉ l ∧ .r251 ∉ l) →
    (unwind l (.err e) s).host.result = some (.err e) ∧ AtRest (unwind l (.err e) s) ∧
      (unwind l (.err e) s).log = s.log ∧ (unwind l (.err e) s).chip = s.chip ∧
      (unwind l (.err e) s).env = s.env ∧ HostKept s (unwind l (.err e) s)

/-- `activate` after the REQA exchange: `Ok` and `Collision` go on to `select`, any other error to the
WUPA exchange; after the WUPA exchange any other error is the result (43_select R193 to R195). -/
def Obligations.ActivateFallback : Prop :=
  ∀ s : State,
    (∀ r, (∃ v, r = .ok v) ∨ r = .err .collision →
      resume .r193 r s = enterSelect (push .r195 s) ∧
        resume .r194 r s = enterSelect (push .r195 s)) ∧
      ∀ e, e ≠ .collision →
        resume .r194 (.err e) s = .done (.err e) s ∧
          ∃ u, resume .r193 (.err e) s = .running u ∧ u.seq = .r161 ∧ u.stack = .r194 :: s.stack ∧
            u.reg.txb = [0x52#8] ∧ u.recvTarget = .atqa ∧ u.arg.cmd = s.cfg.cmdTransceive ∧
            u.arg.waitFlags = transceiveFlags s.cfg ∧ u.arg.txLastBits = 7 ∧ u.arg.rxAlign = 0 ∧
            u.arg.checkCrc = false ∧ u.log = s.log

/-- Arguments that are refused before any transaction: `Err(InvalidArgument)`, the chip, the
environment, the host's buffer and outputs untouched, no working register kept (43_select R199,
44_session R240, R247, R248, R249, R254, 10_state R22, log 23; for `activate` the place of the check is
the model's, log 13). -/
def Obligations.ArgumentsRefused : Prop :=
  ∀ (s : State) (i : Instr), s.seq = .idle →
    ((∃ h, (i = .activate h true ∨ i = .select h true) ∧ ∀ u, h = some u → u.size ∉ [4, 7, 10]) ∨
      (∃ u key b, (i = .authenticateA u key b ∨ i = .authenticateB u key b) ∧
        (u.size ∉ [4, 7, 10] ∨ key.length ≠ 6)) ∨
      (∃ a out, i = .readBlock a out ∧ out.length < 18) ∨
      (∃ a data, i = .writeBlock a data ∧ data.length ≠ 16) ∨
      (∃ p data, i = .writePage p data ∧ data.length ≠ 4)) →
    ∃ t, exec i s = .next t ∧ Ends s t (.err .invalidArgument) [] s.env.answers ∧ t.env = s.env ∧
      HostKept s t

/-! ## Transport primitives -/

/-- `RD` and `RDB` (of a length that is issued) bring back what the environment supplies and change
nothing else (40_transport R120, R121). That the rows run on their own from the command port and show
what they read on the result port is the model's choice (log 8, log 17), and so is that RDB of more than
127 bytes, of which R121 does not speak, is issued as it is (log 27). -/
def Obligations.ReadsComplete : Prop :=
  ∀ (s : State) (a : Byte) (rest : List Answer), s.seq = .idle →
    (∀ v, s.env.answers = gave v :: rest →
      ∃ t, exec (.rd a) s = .next t ∧ Ends s t (.ok (.byte v)) [evR a v] rest ∧ HostKept s t) ∧
      ∀ bs : List Byte, bulkElided s.cfg bs.length = false → s.env.answers = .ok bs :: rest →
        ∃ t, exec (.rdb a bs.length) s = .next t ∧
          Ends s t (.ok (.bytes bs)) [.tx (.rdb a bs.length) (some bs)] rest ∧ HostKept s t

/-- `WR` and `WRB` (of a length that is issued) put their bytes at the one address and change nothing
else (40_transport R122, R123). That the rows run on their own is the model's choice (log 8); the
record of what was written is the model's own (log 4). -/
def Obligations.WritesComplete : Prop :=
  ∀ (s : State) (a : Byte) (rest : List Answer), s.seq = .idle → s.env.answers = wrote :: rest →
    (∀ v, ∃ t, exec (.wr a v) s = .next t ∧ Ends s t (.ok .nothing) [evW a v] rest ∧ HostKept s t ∧
      (a ≠ aFifoData → Memory.read t.chip.written a.toNat = some v)) ∧
      ∀ bs : List Byte, bulkElided s.cfg bs.length = false →
        ∃ t, exec (.wrb a bs) s = .next t ∧
          Ends s t (.ok .nothing) [.tx (.wrb a bs) (some [])] rest ∧ HostKept s t ∧
          (a = aFifoData → t.chip.fifoLoad = s.chip.fifoLoad ++ bs)

/-- A bulk transfer of no bytes produces no transaction and cannot fail, where the configuration
elides it, which is the spec's choice (40_transport R128). That RDB and WRB run on their own is the
model's choice (log 8). -/
def Obligations.EmptyBulkElided : Prop :=
  ∀ (s : State) (a : Byte), s.seq = .idle → s.cfg.zeroLenBulk = .elide →
    (∃ t, exec (.rdb a 0) s = .next t ∧ Ends s t (.ok (.bytes [])) [] s.env.answers ∧
      t.env = s.env ∧ HostKept s t) ∧
      ∃ t, exec (.wrb a []) s = .next t ∧ Ends s t (.ok .nothing) [] s.env.answers ∧
        t.env = s.env ∧ HostKept s t

/-- The four chip commands: one write of the value to Command, recorded there, and nothing else
(30_encoding R85, R86). That a PCDCMD row runs on its own is the model's choice (log 8), and the record
is the model's own (log 4). -/
def Obligations.ChipCommandsComplete : Prop :=
  ∀ (s : State) (rest : List Answer) (i : Instr) (v : Byte), s.seq = .idle →
    s.env.answers = wrote :: rest →
    (i = .cmdIdle ∧ v = s.cfg.cmdIdle) ∨ (i = .cmdCalcCrc ∧ v = s.cfg.cmdCalcCrc) ∨
      (i = .cmdTransceive ∧ v = s.cfg.cmdTransceive) ∨
      (i = .cmdMfAuthent ∧ v = s.cfg.cmdMfAuthent) →
    ∃ t, exec i s = .next t ∧ Ends s t (.ok .nothing) [evW aCommand v] rest ∧ HostKept s t ∧
      Memory.read t.chip.written 1 = some v

/-- `SETBITS`, `CLRBITS` and `stop_session`: a read, then a write of the byte with the bits set or
cleared, every other bit written back as read, and nothing else (40_transport R124, R125, 44_session
R246). That SETBITS and CLRBITS run on their own is the model's choice (log 8). -/
def Obligations.ReadModifyWriteComplete : Prop :=
  ∀ (s : State) (i : Instr) (a v v' : Byte) (rest : List Answer), s.seq = .idle →
    s.env.answers = gave v :: wrote :: rest →
    (∃ m, (i = .setbits a m ∧ v' = v ||| m) ∨ (i = .clrbits a m ∧ v' = v &&& ~~~m)) ∨
      (i = .stopSession ∧ a = aStatus2 ∧ v' = v &&& ~~~s.cfg.st2Crypto1On) →
    ∃ t, RunsTo i s 2 t ∧ Ends s t (.ok .nothing) [evW a v', evR a v] rest ∧ HostKept s t

/-- `POLL` completes at the first value with a done bit, whatever came before without a done or fail
bit within the deadline (40_transport R127). `ds` is how far the clock moves before each sample. That
POLL runs on its own, and its empty result, are the model's choice (log 8, log 17). -/
def Obligations.PollCompletes : Prop :=
  ∀ (s : State) (a d f v : Byte) (deadline d0 : Nat) (vs : List Byte) (ds more : List Nat)
    (rest : List Answer), s.seq = .idle →
    s.env.answers = vs.map (gave ·) ++ gave v :: rest → s.env.ticks = d0 :: (ds ++ more) →
    ds.length = vs.length → ds.sum < deadline →
    (∀ x ∈ vs, anyBit x d = false ∧ anyBit x f = false) → anyBit v d = true →
    ∃ k t, RunsTo (.poll a d f deadline) s k t ∧ AtRest t ∧ t.host.result = some (.ok .nothing) ∧
      (∃ es, t.log = evR a v :: es ++ s.log) ∧ t.env.now = s.env.now + d0 + ds.sum ∧
      t.env.answers = rest ∧ t.env.ticks = more ∧ t.chip = s.chip ∧ HostKept s t

/-- One read of a poll loop, in the three loops: completion is tested first, then the failure mask,
which is a `Timeout` at once, else the time is sampled next (40_transport R127, 41_crc R147,
42_executor R168). POLL on its own (log 8) ends with its completion. -/
def Obligations.PollReadOrder : Prop :=
  ∀ (s u : State) (v : Byte) (rest : List Answer) (a d f : Byte) (again : Seq),
    s.env.answers = gave v :: rest →
    (s.seq = .r147r ∧ a = aDivIrq ∧ d = s.cfg.divIrqCrc ∧ f = 0 ∧ again = .r147n) ∨
      (s.seq = .r168r ∧ a = aComIrq ∧ d = s.arg.waitFlags ∧ f = s.cfg.irqTimer ∧ again = .r168n) ∨
      (s.seq = .r127r ∧ a = s.prim.addr ∧ d = s.prim.doneMask ∧ f = s.prim.failMask ∧
        again = .r127n) →
    u = { s.afterTx (.rd a) with reg := { s.reg with pollv := v } } →
    ∃ t, step s = .next t ∧ t.log = evR a v :: s.log ∧
      (anyBit v d = true → s.seq = .r147r → t = goto .r148h u) ∧
      (anyBit v d = true → s.seq = .r168r → t = goto .r169 u) ∧
      (anyBit v d = true → s.seq = .r127r → t = unwind s.stack (.ok .nothing) u) ∧
      (anyBit v d = false → anyBit v f = true → t = unwind s.stack (.err .timeout) u) ∧
      (anyBit v d = false → anyBit v f = false → t = goto again u)

/-- The time of the three poll loops: the entry step puts its sample into `T0`; then a sample at least
the deadline after `T0` is a `Timeout`, an earlier one leads to the next read (40_transport R127,
60_exceptions R286). POLL on its own is log 8. -/
def Obligations.DeadlineTest : Prop :=
  (∀ (s : State) (head : Seq),
    (s.seq = .r147t ∧ head = .r147r) ∨ (s.seq = .r168t ∧ head = .r168r) ∨
      (s.seq = .r127t ∧ head = .r127r) →
    ∃ t, step s = .next t ∧ t.log = .now s.env.sample :: s.log ∧
      t = goto head { s.afterNow with reg := { s.reg with t0 := s.env.sample } }) ∧
  ∀ (s : State) (deadline : Nat) (head : Seq),
    (s.seq = .r147n ∧ deadline = s.cfg.tCrcMs ∧ head = .r147r) ∨
      (s.seq = .r168n ∧ deadline = s.cfg.tExecMs ∧ head = .r168r) ∨
      (s.seq = .r127n ∧ deadline = s.prim.deadline ∧ head = .r127r) →
    ∃ t, step s = .next t ∧ t.log = .now s.env.sample :: s.log ∧ t.chip = s.chip ∧
      (s.env.sample - s.reg.t0 < deadline → t = goto head s.afterNow) ∧
      (deadline ≤ s.env.sample - s.reg.t0 → t = unwind s.stack (.err .timeout) s.afterNow)

/-! ## CRC -/

/-- `calculate_crc` completes: the nine steps, the CRC assembled from the result pair in the order the
mode bit tells (41_crc R140 to R149), and its frame. The polarity of that bit is the configuration's;
the last clause says it for the spec's choice (41_crc R148, 90_conflicts C4). -/
def Obligations.CalculateCrcCompletes : Prop :=
  ∀ (s : State) (buffer : List Byte) (x : CrcReads) (rest : List Answer),
    s.seq = .idle → x.Completes s.cfg → s.env.answers = crcAnswers s.cfg buffer x ++ rest →
    ∃ t, RunsTo (.calculateCrc buffer) s ((crcAnswers s.cfg buffer x).length + 1) t ∧
      Ends s t (.ok (.crc (x.value s.cfg))) (crcEvents s.cfg buffer x t.env.now) rest ∧
      HostKept s t ∧
      (s.cfg.crcOrder = .highFirstWhenClear →
        (x.mode &&& s.cfg.modeMsbFirst = 0 →
          t.host.result = some (.ok (.crc (joinCrc x.high x.low)))) ∧
          (x.mode &&& s.cfg.modeMsbFirst ≠ 0 →
            t.host.result = some (.ok (.crc (joinCrc x.low x.high)))))

/-- `append_crc` returns the frame with the CRC behind it, low byte first (41_crc R151). It is a helper
(30_encoding R112); that it runs on its own and shows its bytes on the result port is the model's
choice (log 8, log 17). -/
def Obligations.AppendCrcCompletes : Prop :=
  ∀ (s : State) (frame : List Byte) (x : CrcReads) (rest : List Answer),
    s.seq = .idle → x.Completes s.cfg → s.env.answers = crcAnswers s.cfg frame x ++ rest →
    ∃ t, RunsTo (.appendCrc frame) s ((crcAnswers s.cfg frame x).length + 1) t ∧
      Ends s t (.ok (.bytes (frame ++ [lo8 (x.value s.cfg), hi8 (x.value s.cfg)])))
        (crcEvents s.cfg frame x t.env.now) rest ∧
      HostKept s t

/-- `verify_crc` succeeds exactly when the last two bytes are the CRC of the bytes before them, low
byte first, else it is `CrcMismatch` (41_crc R152). Of an array of fewer than two bytes, of which the
rule does not speak, the verdict is a free value and the rest is as for two bytes: the model's choice
(log 27). So is that `verify_crc` runs on its own (log 8). -/
def Obligations.VerifyCrcDecides : Prop :=
  ∀ (s : State) (body : List Byte) (x : CrcReads) (rest : List Answer),
    s.seq = .idle → x.Completes s.cfg → s.env.answers = crcAnswers s.cfg body x ++ rest →
    (∀ a b : Byte, ∃ t,
      RunsTo (.verifyCrc (body ++ [a, b])) s ((crcAnswers s.cfg body x).length + 1) t ∧
      Ends s t
        (if a = lo8 (x.value s.cfg) ∧ b = hi8 (x.value s.cfg) then .ok .nothing
         else .err .crcMismatch)
        (crcEvents s.cfg body x t.env.now) rest ∧
      HostKept s t) ∧
      ∀ r : List Byte, r.length < 2 → body = [] → ∃ t,
        RunsTo (.verifyCrc r) s ((crcAnswers s.cfg body x).length + 1) t ∧
        Ends s t
          (if Config.shortVerify r (x.value s.cfg) then .ok .nothing else .err .crcMismatch)
          (crcEvents s.cfg body x t.env.now) rest ∧
        HostKept s t

/-! ## The executor -/

/-- `execute` and `transceive` with a receive buffer and no CRC check complete: the register sequence,
the received bytes merged into the buffer, the counts (42_executor R160 to R172, R176, R177), and
the frame. That counts above 7 run is log 11, that the result shows the whole buffer log 17. -/
def Obligations.ExchangeReceives : Prop :=
  ∀ (s : State) (i : Instr) (cmd w : Byte) (send buf : List Byte) (tx rx : Nat) (x : ExReads)
    (rest : List Answer), s.seq = .idle → ExchangeCall s.cfg i cmd w send (some buf) tx rx false →
    x.Completes s.cfg w → x.Fits s.cfg buf.length →
    s.env.answers = exchangeAnswers s.cfg cmd send x ++ rest →
    ∃ t, RunsTo i s ((exchangeAnswers s.cfg cmd send x).length + 1) t ∧
      Ends s t
        (.ok (.received x.bytes.length (receivedInto rx buf x.bytes) (rxLastCount s.cfg x.control)))
        (exchangeEvents s.cfg cmd send rx tx x t.env.now) rest ∧
      Outputs t x.bytes.length (rxLastCount s.cfg x.control) ∧
      t.host.buf = receivedInto rx buf x.bytes

/-- `execute` and `transceive` without a receive buffer complete: the FIFO is not read, no CRC is
checked, the host's outputs are not written (42_executor R160, R170, R177, R178; that the result then
shows the counts N and RXLAST, which R170 makes zero, is the model's choice, log 14; that counts above 7 run
is log 11). -/
def Obligations.ExchangeSilent : Prop :=
  ∀ (s : State) (i : Instr) (cmd w : Byte) (send : List Byte) (tx rx : Nat) (check : Bool)
    (x : ExReads) (rest : List Answer), s.seq = .idle →
    ExchangeCall s.cfg i cmd w send none tx rx check → x.Completes s.cfg w →
    s.env.answers = silentAnswers s.cfg cmd send x ++ rest →
    ∃ t, RunsTo i s ((silentAnswers s.cfg cmd send x).length + 1) t ∧
      Ends s t (.ok (.received 0 [] 0)) (silentEvents s.cfg cmd send rx tx x t.env.now) rest ∧
      HostKept s t

/-- `execute` and `transceive` with CRC check: the nested `calculate_crc` over all but the last two
received bytes, and the comparison, low byte first (42_executor R174 to R177). The same of every
exchange, whichever operation nests it: how the nested call is entered, and what its result does; an
error of it is the error of the exchange (R175). That counts above 7 run is log 11, that the result
shows the whole buffer log 17. -/
def Obligations.ExchangeChecksCrc : Prop :=
  (∀ (s : State) (i : Instr) (cmd w : Byte) (send buf got : List Byte) (tx rx : Nat) (x : ExReads)
    (k : CrcReads) (rest : List Answer), s.seq = .idle →
    ExchangeCall s.cfg i cmd w send (some buf) tx rx true → x.Completes s.cfg w →
    x.Fits s.cfg buf.length → 2 ≤ x.bytes.length → rxLastCount s.cfg x.control = 0 →
    k.Completes s.cfg → got = receivedInto rx buf x.bytes →
    s.env.answers =
      checkedAnswers s.cfg cmd send x (got.take (x.bytes.length - 2)) k ++ rest →
    ∃ t₀ t,
      RunsTo i s
        ((checkedAnswers s.cfg cmd send x (got.take (x.bytes.length - 2)) k).length + 2) t ∧
      Ends s t
        (if got.getD (x.bytes.length - 2) 0 = lo8 (k.value s.cfg) ∧
            got.getD (x.bytes.length - 1) 0 = hi8 (k.value s.cfg) then
          .ok (.received x.bytes.length got 0)
         else .err .crcMismatch)
        (checkedEvents s.cfg cmd send rx tx x t₀ (got.take (x.bytes.length - 2)) k t.env.now) rest ∧
      Outputs t x.bytes.length 0 ∧ t.host.buf = got) ∧
    (∀ (s u : State) (v : Byte) (rest : List Answer), s.seq = .r172 →
      s.env.answers = gave v :: rest → s.arg.checkCrc = true → s.recvTarget ≠ .absent →
      s.reg.errsnap &&& s.cfg.errCollision = 0 → 2 ≤ s.reg.n → rxLastCount s.cfg v = 0 →
      u = { s.afterTx (.rd aControl) with
            reg := { s.reg with rxlast := 0 }
            host := if s.recvTarget = .host then { s.host with rxLastBits := 0 } else s.host } →
      step s = .next (goto .r141
        { u with
          stack := .r175 :: s.stack
          arg := { s.arg with buffer := (recvBytes s).take (s.reg.n - 2) } })) ∧
    ∀ s : State,
      (∀ v, resume .r175 (.ok v) s =
        .done
          (if (recvBytes s).getD (s.reg.n - 2) 0 = lo8 s.reg.crc ∧
              (recvBytes s).getD (s.reg.n - 1) 0 = hi8 s.reg.crc then
            .ok (.received s.reg.n (recvBytes s) s.reg.rxlast)
           else .err .crcMismatch) s) ∧
        ∀ e, resume .r175 (.err e) s = .done (.err e) s

/-- A protocol-class bit of the error snapshot is `ProtocolError` before any data is read: FIFO
unread, outputs untouched, whatever the collision bit says; so for a host's `execute` and
`transceive`, and in the snapshot step of every exchange, whichever operation nests it. Without such a
bit the snapshot step goes on with a receive buffer, whatever the overheat and crc bits say
(42_executor R169); without one `ExchangeSilent` says how. The model's choices are the values of the
discarded registers (log 23) and that counts above 7 run (log 11). -/
def Obligations.ProtocolErrorFirst : Prop :=
  (∀ (s : State) (i : Instr) (cmd w : Byte) (send : List Byte) (recv : Option (List Byte))
    (tx rx : Nat) (check : Bool) (x : ExReads) (rest : List Answer), s.seq = .idle →
    ExchangeCall s.cfg i cmd w send recv tx rx check → anyBit x.poll w = true →
    x.error &&& protocolMask s.cfg ≠ 0 →
    s.env.answers = silentAnswers s.cfg cmd send x ++ rest →
    ∃ t, RunsTo i s ((silentAnswers s.cfg cmd send x).length + 1) t ∧
      Ends s t (.err .protocolError) (silentEvents s.cfg cmd send rx tx x t.env.now) rest ∧
      t.host.buf = recv.getD s.host.buf ∧ Outputs t s.host.recvLen s.host.rxLastBits) ∧
    ∀ (s u : State) (v : Byte) (rest : List Answer), s.seq = .r169 →
      s.env.answers = gave v :: rest →
      u = { s.afterTx (.rd aError) with reg := { s.reg with errsnap := v } } →
      (v &&& protocolMask s.cfg ≠ 0 →
        step s = .next (unwind s.stack (.err .protocolError) u)) ∧
        (v &&& protocolMask s.cfg = 0 → s.recvTarget ≠ .absent → step s = .next (goto .r170 u))

/-- A receive buffer smaller than the length the chip reports is `InvalidArgument`: FIFO unread,
buffer and outputs untouched, whatever the collision bit says; so for a host's `execute` and
`transceive`, and in the length step of every exchange, whichever operation nests it, which otherwise
goes on to the data (42_executor R170). That counts above 7 run is log 11. -/
def Obligations.BufferTooSmall : Prop :=
  (∀ (s : State) (i : Instr) (cmd w : Byte) (send buf : List Byte) (tx rx : Nat) (check : Bool)
    (x : ExReads) (rest : List Answer), s.seq = .idle →
    ExchangeCall s.cfg i cmd w send (some buf) tx rx check → anyBit x.poll w = true →
    (errFlags s.cfg x.error).protocolClass = false → buf.length < fifoCount s.cfg x.level →
    s.env.answers = silentAnswers s.cfg cmd send x ++ gave x.level :: rest →
    ∃ t, RunsTo i s ((silentAnswers s.cfg cmd send x).length + 2) t ∧
      Ends s t (.err .invalidArgument)
        (evR aFifoLevel x.level :: silentEvents s.cfg cmd send rx tx x t.env.now) rest ∧
      t.host.buf = buf ∧ Outputs t s.host.recvLen s.host.rxLastBits) ∧
    ∀ (s u : State) (v : Byte) (n : Nat) (rest : List Answer), s.seq = .r170 →
      s.env.answers = gave v :: rest → n = fifoCount s.cfg v →
      u = { s.afterTx (.rd aFifoLevel) with reg := { s.reg with n := n } } →
      ((recvBytes s).length < n →
        step s = .next (unwind s.stack (.err .invalidArgument) u)) ∧
        (n ≤ (recvBytes s).length → bulkElided s.cfg n = false → step s = .next (goto .r171 u)) ∧
        (n ≤ (recvBytes s).length → bulkElided s.cfg n = true →
          ∃ t, step s = .next t ∧ t.seq = .r172 ∧ t.stack = s.stack ∧ t.reg = u.reg ∧
            recvBytes t = recvBytes s)

/-- A collision in the snapshot is `Collision` whether or not data came, before every CRC
consideration; with a receive buffer the received bytes and counts stay. So for a host's `execute` and
`transceive`, and where the answer of every exchange is classified, whichever operation nests it:
after the count of valid bits (step 12), or, without a receive buffer, in the snapshot step
(42_executor R173). The model's choices are the values of the discarded registers (log 23), that
counts above 7 run (log 11), and that the outputs stay without a receive buffer (log 14). -/
def Obligations.CollisionReported : Prop :=
  (∀ (s : State) (i : Instr) (cmd w : Byte) (send : List Byte) (tx rx : Nat) (check : Bool)
    (x : ExReads) (rest : List Answer), s.seq = .idle → anyBit x.poll w = true →
    (errFlags s.cfg x.error).protocolClass = false → x.error &&& s.cfg.errCollision ≠ 0 →
    (∀ buf, ExchangeCall s.cfg i cmd w send (some buf) tx rx check → x.Fits s.cfg buf.length →
      s.env.answers = exchangeAnswers s.cfg cmd send x ++ rest →
      ∃ t, RunsTo i s ((exchangeAnswers s.cfg cmd send x).length + 1) t ∧
        Ends s t (.err .collision) (exchangeEvents s.cfg cmd send rx tx x t.env.now) rest ∧
        Outputs t x.bytes.length (rxLastCount s.cfg x.control) ∧
        t.host.buf = receivedInto rx buf x.bytes) ∧
      (ExchangeCall s.cfg i cmd w send none tx rx check →
        s.env.answers = silentAnswers s.cfg cmd send x ++ rest →
        ∃ t, RunsTo i s ((silentAnswers s.cfg cmd send x).length + 1) t ∧
          Ends s t (.err .collision) (silentEvents s.cfg cmd send rx tx x t.env.now) rest ∧
          HostKept s t)) ∧
    ∀ (s : State) (v : Byte) (rest : List Answer), s.env.answers = gave v :: rest →
      (s.seq = .r172 → s.reg.errsnap &&& s.cfg.errCollision ≠ 0 →
        step s = .next (unwind s.stack (.err .collision)
          { s.afterTx (.rd aControl) with
            reg := { s.reg with rxlast := rxLastCount s.cfg v }
            host := if s.recvTarget = .host then { s.host with rxLastBits := rxLastCount s.cfg v }
                    else s.host })) ∧
        (s.seq = .r169 → s.recvTarget = .absent → v &&& protocolMask s.cfg = 0 →
          v &&& s.cfg.errCollision ≠ 0 →
          step s = .next (unwind s.stack (.err .collision)
            { s.afterTx (.rd aError) with
              reg := { s.reg with errsnap := v, n := 0, rxlast := 0 } }))

/-- The shape of an answer under CRC check: one byte of four bits is `Nack`, else fewer than two bytes
or a partly valid last byte is `CrcMismatch`; no transaction follows. So for a host's `execute` and
`transceive`, and in step 12 of every exchange, whichever operation nests it (42_executor R174). The model's choices
are the values of the discarded registers (log 23) and that counts above 7 run (log 11). -/
def Obligations.ResponseShape : Prop :=
  (∀ (s : State) (i : Instr) (cmd w : Byte) (send buf : List Byte) (tx rx : Nat) (x : ExReads)
    (rest : List Answer), s.seq = .idle → ExchangeCall s.cfg i cmd w send (some buf) tx rx true →
    x.Completes s.cfg w → x.Fits s.cfg buf.length →
    (x.bytes.length < 2 ∨ rxLastCount s.cfg x.control ≠ 0) →
    s.env.answers = exchangeAnswers s.cfg cmd send x ++ rest →
    ∃ t, RunsTo i s ((exchangeAnswers s.cfg cmd send x).length + 1) t ∧
      Ends s t
        (if x.bytes.length = 1 ∧ rxLastCount s.cfg x.control = 4 then .err .nack
         else .err .crcMismatch)
        (exchangeEvents s.cfg cmd send rx tx x t.env.now) rest ∧
      Outputs t x.bytes.length (rxLastCount s.cfg x.control) ∧
      t.host.buf = receivedInto rx buf x.bytes) ∧
    ∀ (s u : State) (v : Byte) (rest : List Answer), s.seq = .r172 →
      s.env.answers = gave v :: rest → s.arg.checkCrc = true → s.recvTarget ≠ .absent →
      s.reg.errsnap &&& s.cfg.errCollision = 0 →
      u = { s.afterTx (.rd aControl) with
            reg := { s.reg with rxlast := rxLastCount s.cfg v }
            host := if s.recvTarget = .host then { s.host with rxLastBits := rxLastCount s.cfg v }
                    else s.host } →
      (s.reg.n = 1 → rxLastCount s.cfg v = 4 → step s = .next (unwind s.stack (.err .nack) u)) ∧
        (¬(s.reg.n = 1 ∧ rxLastCount s.cfg v = 4) → (s.reg.n < 2 ∨ rxLastCount s.cfg v ≠ 0) →
          step s = .next (unwind s.stack (.err .crcMismatch) u))

/-! ## Anti-collision and Select -/

/-- The short frames REQA and WUPA on their own: seven valid bits, no CRC, the answer in the two bytes
of ATQA, which the result shows (30_encoding R93, 43_select R193, R194; that they run on their own is
the model's choice, log 8, log 17, log 24). -/
def Obligations.ShortFramesComplete : Prop :=
  ∀ (s : State) (i : Instr) (b : Byte) (x : ExReads) (rest : List Answer), s.seq = .idle →
    (i = .reqa ∧ b = 0x26#8) ∨ (i = .wupa ∧ b = 0x52#8) →
    x.Completes s.cfg (transceiveFlags s.cfg) → x.Fits s.cfg 2 →
    s.env.answers = exchangeAnswers s.cfg s.cfg.cmdTransceive [b] x ++ rest →
    ∃ t, RunsTo i s ((exchangeAnswers s.cfg s.cfg.cmdTransceive [b] x).length + 1) t ∧
      Ends s t
        (.ok (.received x.bytes.length (overlay [0, 0] x.bytes) (rxLastCount s.cfg x.control)))
        (exchangeEvents s.cfg s.cfg.cmdTransceive [b] 0 7 x t.env.now) rest ∧
      HostKept s t

/-- The anti-collision frames on their own: SEL, NVB, the known bits; the answer goes into the window
that begins at the byte of the first unknown bit, whose known bits are kept, and the result shows it
(30_encoding R95, 43_select R205, R206; log 8, log 17, log 24). -/
def Obligations.AnticollFramesComplete : Prop :=
  ∀ (s : State) (i : Instr) (l kb : Nat) (known frame window : List Byte) (x : ExReads)
    (rest : List Answer), s.seq = .idle →
    (i = .anticollCl1 kb known ∧ l = 0) ∨ (i = .anticollCl2 kb known ∧ l = 1) ∨
      (i = .anticollCl3 kb known ∧ l = 2) →
    knownWf kb known = true → frame = s.cfg.selCl l :: nvbOf kb :: known →
    window = ((frame ++ List.replicate (5 - known.length) 0).drop (2 + kb / 8)) →
    x.Completes s.cfg (transceiveFlags s.cfg) → x.Fits s.cfg window.length →
    s.env.answers = exchangeAnswers s.cfg s.cfg.cmdTransceive frame x ++ rest →
    ∃ t, RunsTo i s ((exchangeAnswers s.cfg s.cfg.cmdTransceive frame x).length + 1) t ∧
      Ends s t
        (.ok (.received x.bytes.length (receivedInto (kb % 8) window x.bytes)
          (rxLastCount s.cfg x.control)))
        (exchangeEvents s.cfg s.cfg.cmdTransceive frame (kb % 8) (kb % 8) x t.env.now) rest ∧
      HostKept s t

/-- The SELECT frames on their own: seven bytes and their CRC, the answer a SAK with its CRC, which is
checked (30_encoding R97, 43_select R213 to R216; log 8, log 17, log 24). -/
def Obligations.SelectFramesComplete : Prop :=
  ∀ (s : State) (i : Instr) (l : Nat) (b0 b1 b2 b3 bcc : Byte) (payload data : List Byte)
    (k₁ k₂ : CrcReads) (x : ExReads) (rest : List Answer), s.seq = .idle →
    (i = .selectCl1 b0 b1 b2 b3 bcc ∧ l = 0) ∨ (i = .selectCl2 b0 b1 b2 b3 bcc ∧ l = 1) ∨
      (i = .selectCl3 b0 b1 b2 b3 bcc ∧ l = 2) →
    payload = [s.cfg.selCl l, 0x70#8, b0, b1, b2, b3, bcc] → k₁.Completes s.cfg →
    x.Completes s.cfg (transceiveFlags s.cfg) → x.Fits s.cfg 3 →
    x.bytes = k₂.frame s.cfg data → rxLastCount s.cfg x.control = 0 → k₂.Completes s.cfg →
    s.env.answers = crcAnswers s.cfg payload k₁ ++
      (checkedAnswers s.cfg s.cfg.cmdTransceive (k₁.frame s.cfg payload) x data k₂ ++ rest) →
    ∃ n t₁ t₂ t, RunsTo i s n t ∧
      Ends s t (.ok (.received x.bytes.length (overlay [0, 0, 0] x.bytes) 0))
        (checkedEvents s.cfg s.cfg.cmdTransceive (k₁.frame s.cfg payload) 0 0 x t₂ data k₂
            t.env.now ++ crcEvents s.cfg payload k₁ t₁) rest ∧
      HostKept s t

/-- `select` completes: through one to three cascade levels, each with a probe (or the hint's bytes,
when `specific`), a SELECT and a SAK, to the UID put together from the levels (43_select R199 to R207,
R212 to R221; a byte that the hint's record lacks is a free value, log 27). -/
def Obligations.SelectCompletes : Prop :=
  ∀ (s : State) (hint known : Option Uid) (specific : Bool) (ls : List LevelReads)
    (rest : List Answer), s.seq = .idle → selectArgsLegal hint specific = true →
    known = (if specific then hint else none) → LevelsOk s.cfg ls →
    s.env.answers = levelsAnswers s.cfg known 0 ls ++ rest →
    ∃ n tm t, RunsTo (.select hint specific) s n t ∧
      Ends s t (.ok (.uid (levelsUid s.cfg known { } 0 ls)))
        (levelsEvents s.cfg known tm 0 ls) rest ∧
      HostKept s t

/-- `activate` completes: REQA, answered or collided, then the whole of `select`; or REQA that ends by
the chip's timer flag or with a protocol-class error, WUPA, answered or collided, then the whole of
`select` (43_select R191, R193 to R195; log 27 for a byte that the hint's record lacks). -/
def Obligations.ActivateCompletes : Prop :=
  ∀ (s : State) (hint known : Option Uid) (specific : Bool) (x y : ExReads) (ls : List LevelReads)
    (rest : List Answer), s.seq = .idle → selectArgsLegal hint specific = true →
    known = (if specific then hint else none) → LevelsOk s.cfg ls →
    anyBit y.poll (transceiveFlags s.cfg) = true →
    (errFlags s.cfg y.error).protocolClass = false → y.Fits s.cfg 2 →
    (s.env.answers = exchangeAnswers s.cfg s.cfg.cmdTransceive [0x26#8] y ++
        (levelsAnswers s.cfg known 0 ls ++ rest) →
      ∃ n t₀ tm t, RunsTo (.activate hint specific) s n t ∧
        Ends s t (.ok (.uid (levelsUid s.cfg known { } 0 ls)))
          (levelsEvents s.cfg known tm 0 ls ++
            exchangeEvents s.cfg s.cfg.cmdTransceive [0x26#8] 0 7 y t₀) rest ∧
        HostKept s t) ∧
      ∀ (failed : List Answer) (failedEvents : Nat → List Event),
        (anyBit x.poll (transceiveFlags s.cfg) = false ∧ anyBit x.poll s.cfg.irqTimer = true ∧
            failed = sendAnswers s.cfg s.cfg.cmdTransceive [0x26#8] x ∧
            failedEvents = sendEvents s.cfg s.cfg.cmdTransceive [0x26#8] 0 7 x) ∨
          (anyBit x.poll (transceiveFlags s.cfg) = true ∧
            (errFlags s.cfg x.error).protocolClass = true ∧
            failed = silentAnswers s.cfg s.cfg.cmdTransceive [0x26#8] x ∧
            failedEvents = silentEvents s.cfg s.cfg.cmdTransceive [0x26#8] 0 7 x) →
        s.env.answers = failed ++ (exchangeAnswers s.cfg s.cfg.cmdTransceive [0x52#8] y ++
          (levelsAnswers s.cfg known 0 ls ++ rest)) →
        ∃ n t₀ t₁ tm t, RunsTo (.activate hint specific) s n t ∧
          Ends s t (.ok (.uid (levelsUid s.cfg known { } 0 ls)))
            (levelsEvents s.cfg known tm 0 ls ++
              (exchangeEvents s.cfg s.cfg.cmdTransceive [0x52#8] 0 7 y t₁ ++ failedEvents t₀)) rest ∧
          HostKept s t

/-- After a collided probe the position is read; the known bits become that many, the bit at the
position is set in the frame buffer, and the next probe carries them, unless the bound of probes is
reached, which ends `select` with `Collision` (43_select R209, R210, R211). -/
def Obligations.CollisionExtendsPrefix : Prop :=
  ∀ (s : State) (v : Byte) (p : Nat) (rest : List Answer), StateInv s → s.seq = .r209 →
    s.env.answers = gave v :: rest → p = collisionPosition s.cfg v →
    ∃ t, step s = .next t ∧ t.log = evR aColl v :: s.log ∧
      (s.sel.att = s.cfg.maxProbes → AtRest t ∧ t.host.result = some (.err .collision)) ∧
      (s.sel.att ≠ s.cfg.maxProbes → t.seq = .r161 ∧ t.stack = .r206 :: s.stack ∧
        t.sel.state = .probing ∧ t.sel.collpos = p ∧ t.sel.kb = p ∧
        t.sel.att = s.sel.att + 1 ∧ t.sel.level = s.sel.level ∧ t.sel.uidAcc = s.sel.uidAcc ∧
        (t.sel.buf.getD (2 + (p - 1) / 8) 0).getLsbD ((p - 1) % 8) = true ∧
        (∀ k, k ≠ 1 → k ≠ 2 + (p - 1) / 8 → t.sel.buf.getD k 0 = s.sel.buf.getD k 0) ∧
        (∀ j, j ≠ (p - 1) % 8 → (t.sel.buf.getD (2 + (p - 1) / 8) 0).getLsbD j =
          (s.sel.buf.getD (2 + (p - 1) / 8) 0).getLsbD j) ∧
        t.sel.buf.getD 1 0 = nvbOf p ∧
        t.reg.txb = t.sel.buf.take (2 + (p + 7) / 8) ∧ t.recvTarget = .window (2 + p / 8) ∧
        t.arg.txLastBits = p % 8 ∧ t.arg.rxAlign = p % 8 ∧ t.arg.checkCrc = false ∧
        t.arg.cmd = s.cfg.cmdTransceive ∧ t.arg.waitFlags = transceiveFlags s.cfg)

/-- The result of a probe: `Ok` leads to the SELECT, whatever the BCC is; `Collision` to the read of
the position; any other error ends `select` with SELSTATE `Idle` (43_select R207, R208, R209, R212). -/
def Obligations.ProbeOutcome : Prop :=
  ∀ s : State, s.sel.buf.length = 9 →
    (∀ v, ∃ u, resume .r206 (.ok v) s = .running u ∧ u.seq = .r141 ∧ u.sel.state = .selecting ∧
      u.sel.buf = s.sel.buf.set 1 0x70#8 ∧ u.arg.buffer = (s.sel.buf.set 1 0x70#8).take 7 ∧
      u.stack = .r213 :: s.stack ∧ u.log = s.log) ∧
      (∃ u, resume .r206 (.err .collision) s = .running u ∧ u.seq = .r209 ∧
        u.sel.state = .colliding ∧ u.stack = s.stack ∧ u.sel.buf = s.sel.buf ∧ u.log = s.log) ∧
      ∀ e, e ≠ .collision → ∃ u, resume .r206 (.err e) s = .done (.err e) u ∧ u.sel.state = .idle ∧
        u.log = s.log

/-- After the SELECT: the level's bytes are copied; a SAK with the cascade bit leads to the next
level, its registers initialised and its known bytes laid down when `specific`, or, at the third
level, to `ProtocolError`; a SAK without it finalises the UID (43_select R201, R202, R205, R212, R217 to
R220, 30_encoding R98; a byte that the hint's record lacks is a free value, log 27). -/
def Obligations.CascadeDecides : Prop :=
  ∀ (s : State) (v : Value) (sak sel : Byte) (acc : Uid) (known : List Byte),
    sak = s.sel.sakb.getD 0 0 → acc = copyLevel s.sel.level s.sel.buf s.sel.uidAcc →
    sel = s.cfg.selCl (s.sel.level + 1) →
    known = knownBytes (s.arg.uidHint.getD { }) (s.sel.level + 1) →
    (sak &&& 0x04#8 ≠ 0 → s.sel.level < 2 → ∃ u, resume .r215 (.ok v) s = .running u ∧
      u.sel.level = s.sel.level + 1 ∧ u.sel.uidAcc = acc ∧ u.sel.collpos = 0 ∧ u.log = s.log ∧
      (s.arg.specific = false → u.seq = .r161 ∧ u.stack = .r206 :: s.stack ∧
        u.sel.state = .probing ∧ u.sel.kb = 0 ∧ u.sel.att = 1 ∧
        u.sel.buf = [sel, 0x20#8, 0, 0, 0, 0, 0, 0, 0] ∧ u.reg.txb = [sel, 0x20#8]) ∧
      (s.arg.specific = true → u.seq = .r141 ∧ u.stack = .r213 :: s.stack ∧
        u.sel.state = .selecting ∧ u.sel.kb = 32 ∧ u.sel.att = 0 ∧
        u.sel.buf = sel :: 0x70#8 :: (known ++ [bccOf known, 0, 0]) ∧
        u.arg.buffer = sel :: 0x70#8 :: (known ++ [bccOf known]))) ∧
      (sak &&& 0x04#8 ≠ 0 → 2 ≤ s.sel.level → ∃ u,
        resume .r215 (.ok v) s = .done (.err .protocolError) u ∧ u.sel.state = .idle ∧
          u.log = s.log) ∧
      (sak &&& 0x04#8 = 0 → ∃ u,
        resume .r215 (.ok v) s =
          .done (.ok (.uid { acc with size := 3 * (s.sel.level + 1) + 1, sak := sak,
                                      piccType := piccTypeOf s.cfg sak })) u ∧
          u.sel.state = .idle ∧ u.log = s.log)

/-- `halt`: HLTA with its CRC and no receive buffer; a `Timeout` of it is success, whether by the chip's
timer flag or by the deadline, any other error is the result, and an answer is `ProtocolError`
(43_select R223, R224). HLTA on its own has no such remapping: an answered exchange is `Ok`
(30_encoding R100; log 8, log 14, log 17). -/
def Obligations.HaltCompletes : Prop :=
  (∀ (s : State) (k : CrcReads) (x : ExReads) (payload : List Byte) (rest : List Answer),
    s.seq = .idle → payload = [0x50#8, s.cfg.hltaArg] → k.Completes s.cfg →
    (anyBit x.poll (transceiveFlags s.cfg) = false → anyBit x.poll s.cfg.irqTimer = true →
      s.env.answers = crcAnswers s.cfg payload k ++
        (sendAnswers s.cfg s.cfg.cmdTransceive (k.frame s.cfg payload) x ++ rest) →
      ∃ n t₁ t, RunsTo .halt s n t ∧
        Ends s t (.ok .nothing)
          (sendEvents s.cfg s.cfg.cmdTransceive (k.frame s.cfg payload) 0 0 x t.env.now ++
            crcEvents s.cfg payload k t₁) rest ∧
        HostKept s t) ∧
      ∀ (i : Instr) (r : Res),
        (i = .halt ∧ r = .err .protocolError) ∨ (i = .hlta ∧ r = .ok (.received 0 [] 0)) →
        x.Completes s.cfg (transceiveFlags s.cfg) →
        s.env.answers = crcAnswers s.cfg payload k ++
          (silentAnswers s.cfg s.cfg.cmdTransceive (k.frame s.cfg payload) x ++ rest) →
        ∃ n t₁ t, RunsTo i s n t ∧
          Ends s t r
            (silentEvents s.cfg s.cfg.cmdTransceive (k.frame s.cfg payload) 0 0 x t.env.now ++
              crcEvents s.cfg payload k t₁) rest ∧
          HostKept s t) ∧
    (∀ u : State, resume .r224 (.err .timeout) u = .done (.ok .nothing) u ∧
      (∀ e, e ≠ .timeout → resume .r224 (.err e) u = .done (.err e) u) ∧
      ∀ v, resume .r224 (.ok v) u = .done (.err .protocolError) u) ∧
    ∀ s : State, s.seq = .r168n → s.stack = [.r224] → s.cfg.tExecMs ≤ s.env.sample - s.reg.t0 →
      ∃ t, step s = .next t ∧ AtRest t ∧ t.host.result = some (.ok .nothing) ∧
        t.log = .now s.env.sample :: s.log ∧ t.chip = s.chip ∧ HostKept s t

/-! ## Session and MIFARE -/

/-- `authenticate_a` and `authenticate_b`: the twelve-byte frame through the chip's authentication
command, waiting for Idle, no start-send, nothing read back, and no key left in the registers; and the
same frames on their own (44_session R240 to R242; log 8, log 14, log 17 for the frames). The last four
bytes of a UID record of ten bytes are `bytes[size-4..size)`; a byte that a shorter record lacks is a
free value (log 27). -/
def Obligations.AuthenticateCompletes : Prop :=
  (∀ u : Uid, u.bytes.length = 10 → u.size ∈ [4, 7, 10] →
    uidTail u = (u.bytes.drop (u.size - 4)).take 4) ∧
    ∀ (s : State) (i : Instr) (v : Value) (block : Byte) (key tail frame : List Byte)
      (x : ExReads) (rest : List Answer), s.seq = .idle → key.length = 6 → tail.length = 4 →
      (∃ u : Uid, u.size ∈ [4, 7, 10] ∧ tail = uidTail u ∧ v = .nothing ∧
        ((i = .authenticateA u key block ∧ frame = 0x60#8 :: block :: (key ++ tail)) ∨
          (i = .authenticateB u key block ∧ frame = 0x61#8 :: block :: (key ++ tail)))) ∨
        (v = .received 0 [] 0 ∧
          ((i = .mfAuthKeyA block key tail ∧ frame = 0x60#8 :: block :: (key ++ tail)) ∨
            (i = .mfAuthKeyB block key tail ∧ frame = 0x61#8 :: block :: (key ++ tail)))) →
      x.Completes s.cfg s.cfg.irqIdle →
      s.env.answers = silentAnswers s.cfg s.cfg.cmdMfAuthent frame x ++ rest →
      ∃ t, RunsTo i s ((silentAnswers s.cfg s.cfg.cmdMfAuthent frame x).length + 1) t ∧
        Ends s t (.ok v) (silentEvents s.cfg s.cfg.cmdMfAuthent frame 0 0 x t.env.now) rest ∧
        HostKept s t

/-- `read_block` and MF_READ: READ with its CRC, the answer and its CRC checked, all bytes received
in the buffer (44_session R247; log 8 and log 17 for the frame on its own). -/
def Obligations.ReadBlockCompletes : Prop :=
  ∀ (s : State) (i : Instr) (addr : Byte) (out payload data : List Byte) (k₁ k₂ : CrcReads)
    (x : ExReads) (rest : List Answer), s.seq = .idle →
    (i = .readBlock addr out ∧ 18 ≤ out.length) ∨ (i = .mfRead addr ∧ out = List.replicate 18 0) →
    payload = [0x30#8, addr] → k₁.Completes s.cfg → x.Completes s.cfg (transceiveFlags s.cfg) →
    x.Fits s.cfg out.length → x.bytes = k₂.frame s.cfg data → rxLastCount s.cfg x.control = 0 →
    k₂.Completes s.cfg →
    s.env.answers = crcAnswers s.cfg payload k₁ ++
      (checkedAnswers s.cfg s.cfg.cmdTransceive (k₁.frame s.cfg payload) x data k₂ ++ rest) →
    ∃ n t₁ t₂ t, RunsTo i s n t ∧
      Ends s t (.ok (.received x.bytes.length (overlay out x.bytes) 0))
        (checkedEvents s.cfg s.cfg.cmdTransceive (k₁.frame s.cfg payload) 0 0 x t₂ data k₂
            t.env.now ++ crcEvents s.cfg payload k₁ t₁) rest ∧
      Outputs t x.bytes.length 0 ∧ t.host.buf = overlay out x.bytes

/-- `mifare_transceive`, `write_page` and MF_WRITE_UL: the payload with its CRC, one exchange into the
one-byte ACK buffer; one byte of four bits equal to 0x0A is `Ok`, another such byte is `Nack`, any
other answer is `ProtocolError` (44_session R249, R250, R251; log 8 for the frame on its own). -/
def Obligations.AckExchangeDecides : Prop :=
  ∀ (s : State) (i : Instr) (payload : List Byte) (k : CrcReads) (x : ExReads)
    (rest : List Answer), s.seq = .idle →
    (∃ ign, i = .mifareTransceive payload ign) ∨
      (∃ page data, payload = 0xA2#8 :: page :: data ∧ data.length = 4 ∧
        (i = .writePage page data ∨ i = .mfWriteUl page data)) →
    k.Completes s.cfg → x.Completes s.cfg (transceiveFlags s.cfg) → x.Fits s.cfg 1 →
    s.env.answers = crcAnswers s.cfg payload k ++
      (exchangeAnswers s.cfg s.cfg.cmdTransceive (k.frame s.cfg payload) x ++ rest) →
    ∃ n t₁ t, RunsTo i s n t ∧
      Ends s t
        (if x.bytes.length ≠ 1 ∨ rxLastCount s.cfg x.control ≠ 4 then .err .protocolError
         else if x.bytes ≠ [0x0A#8] then .err .nack else .ok .nothing)
        (exchangeEvents s.cfg s.cfg.cmdTransceive (k.frame s.cfg payload) 0 0 x t.env.now ++
          crcEvents s.cfg payload k t₁) rest ∧
      HostKept s t

/-- `ignore_timeout` turns the `Timeout` of the exchange into `Ok`, and only that one: without it the
result is `Timeout`, and a `Timeout` of the CRC computation stays one (44_session R252). In the
runs the timer flag of the chip is the timeout; the last clauses are about every `Timeout`, that of the
deadline too. -/
def Obligations.IgnoreTimeout : Prop :=
  ∀ (s : State) (payload : List Byte) (ign : Bool) (k : CrcReads) (x : ExReads)
    (rest : List Answer), s.seq = .idle → k.Completes s.cfg →
    anyBit x.poll (transceiveFlags s.cfg) = false → anyBit x.poll s.cfg.irqTimer = true →
    s.env.answers = crcAnswers s.cfg payload k ++
      (sendAnswers s.cfg s.cfg.cmdTransceive (k.frame s.cfg payload) x ++ rest) →
    (∃ n t₁ t, RunsTo (.mifareTransceive payload ign) s n t ∧
      Ends s t (if ign then .ok .nothing else .err .timeout)
        (sendEvents s.cfg s.cfg.cmdTransceive (k.frame s.cfg payload) 0 0 x t.env.now ++
          crcEvents s.cfg payload k t₁) rest ∧
      HostKept s t) ∧
      (∀ u : State, resume .r250 (.err .timeout) u = .done (.err .timeout) u) ∧
      (∀ u : State, resume .r251 (.err .timeout) u =
        .done (if u.arg.ignoreTimeout then .ok .nothing else .err .timeout) u) ∧
      ∀ u : State, u.seq = .r168n → u.stack = [.r251] →
        u.cfg.tExecMs ≤ u.env.sample - u.reg.t0 →
        ∃ t, step u = .next t ∧ AtRest t ∧
          t.host.result = some (if u.arg.ignoreTimeout then .ok .nothing else .err .timeout) ∧
          t.log = .now u.env.sample :: u.log ∧ t.chip = u.chip ∧ HostKept u t

/-- `write_block` and MF_WRITE: two such exchanges in order, the command with the address and then
the sixteen data bytes as given; the result is the second one's when the first is acknowledged. When
the first is not, its error is the result and the second is not started; so too for every error of the
first phase (44_session R248, R251, R254; log 8 and log 10 for the frame on its own). -/
def Obligations.WriteBlockCompletes : Prop :=
  (∀ (s : State) (i : Instr) (addr : Byte) (first data : List Byte) (k₁ k₂ : CrcReads)
    (x₁ x₂ : ExReads) (rest : List Answer), s.seq = .idle →
    (i = .writeBlock addr data ∨ i = .mfWrite addr data) →
    data.length = 16 → first = [0xA0#8, addr] →
    k₁.Completes s.cfg → x₁.Completes s.cfg (transceiveFlags s.cfg) → x₁.Fits s.cfg 1 →
    x₁.bytes = [0x0A#8] → rxLastCount s.cfg x₁.control = 4 →
    k₂.Completes s.cfg → x₂.Completes s.cfg (transceiveFlags s.cfg) → x₂.Fits s.cfg 1 →
    s.env.answers =
      crcAnswers s.cfg first k₁ ++
        (exchangeAnswers s.cfg s.cfg.cmdTransceive (k₁.frame s.cfg first) x₁ ++
          (crcAnswers s.cfg data k₂ ++
            (exchangeAnswers s.cfg s.cfg.cmdTransceive (k₂.frame s.cfg data) x₂ ++ rest))) →
    ∃ n t₁ t₂ t₃ t, RunsTo i s n t ∧
      Ends s t
        (if x₂.bytes.length ≠ 1 ∨ rxLastCount s.cfg x₂.control ≠ 4 then .err .protocolError
         else if x₂.bytes ≠ [0x0A#8] then .err .nack else .ok .nothing)
        (exchangeEvents s.cfg s.cfg.cmdTransceive (k₂.frame s.cfg data) 0 0 x₂ t.env.now ++
          (crcEvents s.cfg data k₂ t₃ ++
            (exchangeEvents s.cfg s.cfg.cmdTransceive (k₁.frame s.cfg first) 0 0 x₁ t₂ ++
              crcEvents s.cfg first k₁ t₁))) rest ∧
      HostKept s t) ∧
    (∀ (s : State) (i : Instr) (addr : Byte) (first data : List Byte) (k : CrcReads) (x : ExReads)
      (rest : List Answer), s.seq = .idle →
      (i = .writeBlock addr data ∨ i = .mfWrite addr data) →
      data.length = 16 → first = [0xA0#8, addr] →
      k.Completes s.cfg → x.Completes s.cfg (transceiveFlags s.cfg) → x.Fits s.cfg 1 →
      ¬(x.bytes = [0x0A#8] ∧ rxLastCount s.cfg x.control = 4) →
      s.env.answers = crcAnswers s.cfg first k ++
        (exchangeAnswers s.cfg s.cfg.cmdTransceive (k.frame s.cfg first) x ++ rest) →
      ∃ n t₁ t, RunsTo i s n t ∧
        Ends s t
          (if x.bytes.length ≠ 1 ∨ rxLastCount s.cfg x.control ≠ 4 then .err .protocolError
           else .err .nack)
          (exchangeEvents s.cfg s.cfg.cmdTransceive (k.frame s.cfg first) 0 0 x t.env.now ++
            crcEvents s.cfg first k t₁) rest ∧
        HostKept s t) ∧
    ∀ u : State,
      (∀ v, resume .r251 (.ok v) u =
        .done
          (if u.reg.n ≠ 1 ∨ u.reg.rxlast ≠ 4 then .err .protocolError
           else if u.reg.ackb.getD 0 0 ≠ 0x0A#8 then .err .nack else .ok .nothing) u) ∧
        ∀ e, resume .r248 (.err e) u = .done (.err e) u
end

