-- ==== Sys2Proof/Laws/State.lean ====
section
/-! SUPPORT. One lemma for each field under each update of the state, true by `rfl`, so that no proof
unfolds a record update. -/

namespace Sys2Proof.Machine

/-! ## `goto` -/
@[simp] theorem goto_cfg (l : Seq) (s : State) : (goto l s).cfg = s.cfg := rfl
@[simp] theorem goto_host (l : Seq) (s : State) : (goto l s).host = s.host := rfl
@[simp] theorem goto_op (l : Seq) (s : State) : (goto l s).op = s.op := rfl
@[simp] theorem goto_arg (l : Seq) (s : State) : (goto l s).arg = s.arg := rfl
@[simp] theorem goto_prim (l : Seq) (s : State) : (goto l s).prim = s.prim := rfl
@[simp] theorem goto_recvTarget (l : Seq) (s : State) : (goto l s).recvTarget = s.recvTarget := rfl
@[simp] theorem goto_seq (l : Seq) (s : State) : (goto l s).seq = l := rfl
@[simp] theorem goto_stack (l : Seq) (s : State) : (goto l s).stack = s.stack := rfl
@[simp] theorem goto_reg (l : Seq) (s : State) : (goto l s).reg = s.reg := rfl
@[simp] theorem goto_sel (l : Seq) (s : State) : (goto l s).sel = s.sel := rfl
@[simp] theorem goto_chip (l : Seq) (s : State) : (goto l s).chip = s.chip := rfl
@[simp] theorem goto_env (l : Seq) (s : State) : (goto l s).env = s.env := rfl
@[simp] theorem goto_log (l : Seq) (s : State) : (goto l s).log = s.log := rfl

/-! ## `push` -/
@[simp] theorem push_cfg (l : Ret) (s : State) : (push l s).cfg = s.cfg := rfl
@[simp] theorem push_host (l : Ret) (s : State) : (push l s).host = s.host := rfl
@[simp] theorem push_op (l : Ret) (s : State) : (push l s).op = s.op := rfl
@[simp] theorem push_arg (l : Ret) (s : State) : (push l s).arg = s.arg := rfl
@[simp] theorem push_prim (l : Ret) (s : State) : (push l s).prim = s.prim := rfl
@[simp] theorem push_recvTarget (l : Ret) (s : State) : (push l s).recvTarget = s.recvTarget := rfl
@[simp] theorem push_seq (l : Ret) (s : State) : (push l s).seq = s.seq := rfl
@[simp] theorem push_stack (l : Ret) (s : State) : (push l s).stack = l :: s.stack := rfl
@[simp] theorem push_reg (l : Ret) (s : State) : (push l s).reg = s.reg := rfl
@[simp] theorem push_sel (l : Ret) (s : State) : (push l s).sel = s.sel := rfl
@[simp] theorem push_chip (l : Ret) (s : State) : (push l s).chip = s.chip := rfl
@[simp] theorem push_env (l : Ret) (s : State) : (push l s).env = s.env := rfl
@[simp] theorem push_log (l : Ret) (s : State) : (push l s).log = s.log := rfl

/-! ## `setSelState` -/
@[simp] theorem setSelState_cfg (st : SelState) (s : State) : (setSelState st s).cfg = s.cfg := rfl
@[simp] theorem setSelState_host (st : SelState) (s : State) :
    (setSelState st s).host = s.host := rfl
@[simp] theorem setSelState_op (st : SelState) (s : State) : (setSelState st s).op = s.op := rfl
@[simp] theorem setSelState_arg (st : SelState) (s : State) : (setSelState st s).arg = s.arg := rfl
@[simp] theorem setSelState_prim (st : SelState) (s : State) :
    (setSelState st s).prim = s.prim := rfl
@[simp] theorem setSelState_recvTarget (st : SelState) (s : State) :
    (setSelState st s).recvTarget = s.recvTarget := rfl
@[simp] theorem setSelState_seq (st : SelState) (s : State) : (setSelState st s).seq = s.seq := rfl
@[simp] theorem setSelState_stack (st : SelState) (s : State) :
    (setSelState st s).stack = s.stack := rfl
@[simp] theorem setSelState_reg (st : SelState) (s : State) : (setSelState st s).reg = s.reg := rfl
@[simp] theorem setSelState_sel (st : SelState) (s : State) :
    (setSelState st s).sel = { s.sel with state := st } := rfl
@[simp] theorem setSelState_chip (st : SelState) (s : State) :
    (setSelState st s).chip = s.chip := rfl
@[simp] theorem setSelState_env (st : SelState) (s : State) : (setSelState st s).env = s.env := rfl
@[simp] theorem setSelState_log (st : SelState) (s : State) : (setSelState st s).log = s.log := rfl

/-! ## `latched` -/
@[simp] theorem latched_cfg (s : State) (op : Byte) (ports : Args) :
    (s.latched op ports).cfg = s.cfg := rfl
@[simp] theorem latched_host (s : State) (op : Byte) (ports : Args) :
    (s.latched op ports).host = { s.host with result := none } := rfl
@[simp] theorem latched_op (s : State) (op : Byte) (ports : Args) :
    (s.latched op ports).op = op := rfl
@[simp] theorem latched_arg (s : State) (op : Byte) (ports : Args) :
    (s.latched op ports).arg = ports := rfl
@[simp] theorem latched_prim (s : State) (op : Byte) (ports : Args) :
    (s.latched op ports).prim = s.prim := rfl
@[simp] theorem latched_recvTarget (s : State) (op : Byte) (ports : Args) :
    (s.latched op ports).recvTarget = s.recvTarget := rfl
@[simp] theorem latched_seq (s : State) (op : Byte) (ports : Args) :
    (s.latched op ports).seq = s.seq := rfl
@[simp] theorem latched_stack (s : State) (op : Byte) (ports : Args) :
    (s.latched op ports).stack = [] := rfl
@[simp] theorem latched_reg (s : State) (op : Byte) (ports : Args) :
    (s.latched op ports).reg = s.reg := rfl
@[simp] theorem latched_sel (s : State) (op : Byte) (ports : Args) :
    (s.latched op ports).sel = s.sel := rfl
@[simp] theorem latched_chip (s : State) (op : Byte) (ports : Args) :
    (s.latched op ports).chip = s.chip := rfl
@[simp] theorem latched_env (s : State) (op : Byte) (ports : Args) :
    (s.latched op ports).env = s.env := rfl
@[simp] theorem latched_log (s : State) (op : Byte) (ports : Args) :
    (s.latched op ports).log = s.log := rfl

/-! ## `discard` -/
@[simp] theorem discard_cfg (s : State) : (s.discard).cfg = s.cfg := rfl
@[simp] theorem discard_host (s : State) : (s.discard).host = s.host := rfl
@[simp] theorem discard_op (s : State) : (s.discard).op = 0 := rfl
@[simp] theorem discard_arg (s : State) : (s.discard).arg = { } := rfl
@[simp] theorem discard_prim (s : State) : (s.discard).prim = { } := rfl
@[simp] theorem discard_recvTarget (s : State) : (s.discard).recvTarget = .absent := rfl
@[simp] theorem discard_seq (s : State) : (s.discard).seq = .idle := rfl
@[simp] theorem discard_stack (s : State) : (s.discard).stack = [] := rfl
@[simp] theorem discard_reg (s : State) : (s.discard).reg = { } := rfl
@[simp] theorem discard_sel (s : State) : (s.discard).sel = { } := rfl
@[simp] theorem discard_chip (s : State) : (s.discard).chip = s.chip := rfl
@[simp] theorem discard_env (s : State) : (s.discard).env = s.env := rfl
@[simp] theorem discard_log (s : State) : (s.discard).log = s.log := rfl

/-! ## `setHostOutput` -/
@[simp] theorem setHostOutput_cfg (f : HostSide → HostSide) (s : State) :
    (setHostOutput f s).cfg = s.cfg := rfl
@[simp] theorem setHostOutput_host (f : HostSide → HostSide) (s : State) :
    (setHostOutput f s).host = if s.recvTarget = .host then f s.host else s.host := rfl
@[simp] theorem setHostOutput_op (f : HostSide → HostSide) (s : State) :
    (setHostOutput f s).op = s.op := rfl
@[simp] theorem setHostOutput_arg (f : HostSide → HostSide) (s : State) :
    (setHostOutput f s).arg = s.arg := rfl
@[simp] theorem setHostOutput_prim (f : HostSide → HostSide) (s : State) :
    (setHostOutput f s).prim = s.prim := rfl
@[simp] theorem setHostOutput_recvTarget (f : HostSide → HostSide) (s : State) :
    (setHostOutput f s).recvTarget = s.recvTarget := rfl
@[simp] theorem setHostOutput_seq (f : HostSide → HostSide) (s : State) :
    (setHostOutput f s).seq = s.seq := rfl
@[simp] theorem setHostOutput_stack (f : HostSide → HostSide) (s : State) :
    (setHostOutput f s).stack = s.stack := rfl
@[simp] theorem setHostOutput_reg (f : HostSide → HostSide) (s : State) :
    (setHostOutput f s).reg = s.reg := rfl
@[simp] theorem setHostOutput_sel (f : HostSide → HostSide) (s : State) :
    (setHostOutput f s).sel = s.sel := rfl
@[simp] theorem setHostOutput_chip (f : HostSide → HostSide) (s : State) :
    (setHostOutput f s).chip = s.chip := rfl
@[simp] theorem setHostOutput_env (f : HostSide → HostSide) (s : State) :
    (setHostOutput f s).env = s.env := rfl
@[simp] theorem setHostOutput_log (f : HostSide → HostSide) (s : State) :
    (setHostOutput f s).log = s.log := rfl

/-! ## `afterTx` -/
@[simp] theorem afterTx_cfg (s : State) (t : Tx) : (s.afterTx t).cfg = s.cfg := rfl
@[simp] theorem afterTx_host (s : State) (t : Tx) : (s.afterTx t).host = s.host := rfl
@[simp] theorem afterTx_op (s : State) (t : Tx) : (s.afterTx t).op = s.op := rfl
@[simp] theorem afterTx_arg (s : State) (t : Tx) : (s.afterTx t).arg = s.arg := rfl
@[simp] theorem afterTx_prim (s : State) (t : Tx) : (s.afterTx t).prim = s.prim := rfl
@[simp] theorem afterTx_recvTarget (s : State) (t : Tx) :
    (s.afterTx t).recvTarget = s.recvTarget := rfl
@[simp] theorem afterTx_seq (s : State) (t : Tx) : (s.afterTx t).seq = s.seq := rfl
@[simp] theorem afterTx_stack (s : State) (t : Tx) : (s.afterTx t).stack = s.stack := rfl
@[simp] theorem afterTx_reg (s : State) (t : Tx) : (s.afterTx t).reg = s.reg := rfl
@[simp] theorem afterTx_sel (s : State) (t : Tx) : (s.afterTx t).sel = s.sel := rfl
@[simp] theorem afterTx_chip (s : State) (t : Tx) :
    (s.afterTx t).chip = if (s.answer t).isSome then s.chip.put s.cfg t else s.chip := rfl
@[simp] theorem afterTx_env (s : State) (t : Tx) :
    (s.afterTx t).env = s.env.afterAnswer t.readLen := rfl
@[simp] theorem afterTx_log (s : State) (t : Tx) :
    (s.afterTx t).log = .tx t (s.answer t) :: s.log := rfl

/-! ## `afterNow` -/
@[simp] theorem afterNow_cfg (s : State) : (s.afterNow).cfg = s.cfg := rfl
@[simp] theorem afterNow_host (s : State) : (s.afterNow).host = s.host := rfl
@[simp] theorem afterNow_op (s : State) : (s.afterNow).op = s.op := rfl
@[simp] theorem afterNow_arg (s : State) : (s.afterNow).arg = s.arg := rfl
@[simp] theorem afterNow_prim (s : State) : (s.afterNow).prim = s.prim := rfl
@[simp] theorem afterNow_recvTarget (s : State) : (s.afterNow).recvTarget = s.recvTarget := rfl
@[simp] theorem afterNow_seq (s : State) : (s.afterNow).seq = s.seq := rfl
@[simp] theorem afterNow_stack (s : State) : (s.afterNow).stack = s.stack := rfl
@[simp] theorem afterNow_reg (s : State) : (s.afterNow).reg = s.reg := rfl
@[simp] theorem afterNow_sel (s : State) : (s.afterNow).sel = s.sel := rfl
@[simp] theorem afterNow_chip (s : State) : (s.afterNow).chip = s.chip := rfl
@[simp] theorem afterNow_env (s : State) : (s.afterNow).env = s.env.afterSample := rfl
@[simp] theorem afterNow_log (s : State) : (s.afterNow).log = .now s.env.sample :: s.log := rfl

/-! ## `clearAtqa` -/
@[simp] theorem clearAtqa_cfg (s : State) : (clearAtqa s).cfg = s.cfg := rfl
@[simp] theorem clearAtqa_host (s : State) : (clearAtqa s).host = s.host := rfl
@[simp] theorem clearAtqa_op (s : State) : (clearAtqa s).op = s.op := rfl
@[simp] theorem clearAtqa_arg (s : State) : (clearAtqa s).arg = s.arg := rfl
@[simp] theorem clearAtqa_prim (s : State) : (clearAtqa s).prim = s.prim := rfl
@[simp] theorem clearAtqa_recvTarget (s : State) : (clearAtqa s).recvTarget = s.recvTarget := rfl
@[simp] theorem clearAtqa_seq (s : State) : (clearAtqa s).seq = s.seq := rfl
@[simp] theorem clearAtqa_stack (s : State) : (clearAtqa s).stack = s.stack := rfl
@[simp] theorem clearAtqa_reg (s : State) : (clearAtqa s).reg = s.reg := rfl
@[simp] theorem clearAtqa_sel (s : State) : (clearAtqa s).sel = { s.sel with atqa := [0, 0] } := rfl
@[simp] theorem clearAtqa_chip (s : State) : (clearAtqa s).chip = s.chip := rfl
@[simp] theorem clearAtqa_env (s : State) : (clearAtqa s).env = s.env := rfl
@[simp] theorem clearAtqa_log (s : State) : (clearAtqa s).log = s.log := rfl

/-! ## `appendCrcToTxb` -/
@[simp] theorem appendCrcToTxb_cfg (s : State) : (appendCrcToTxb s).cfg = s.cfg := rfl
@[simp] theorem appendCrcToTxb_host (s : State) : (appendCrcToTxb s).host = s.host := rfl
@[simp] theorem appendCrcToTxb_op (s : State) : (appendCrcToTxb s).op = s.op := rfl
@[simp] theorem appendCrcToTxb_arg (s : State) : (appendCrcToTxb s).arg = s.arg := rfl
@[simp] theorem appendCrcToTxb_prim (s : State) : (appendCrcToTxb s).prim = s.prim := rfl
@[simp] theorem appendCrcToTxb_recvTarget (s : State) :
    (appendCrcToTxb s).recvTarget = s.recvTarget := rfl
@[simp] theorem appendCrcToTxb_seq (s : State) : (appendCrcToTxb s).seq = s.seq := rfl
@[simp] theorem appendCrcToTxb_stack (s : State) : (appendCrcToTxb s).stack = s.stack := rfl
@[simp] theorem appendCrcToTxb_reg (s : State) :
    (appendCrcToTxb s).reg = { s.reg with txb := s.reg.txb ++ crcBytes s.reg.crc } := rfl
@[simp] theorem appendCrcToTxb_sel (s : State) : (appendCrcToTxb s).sel = s.sel := rfl
@[simp] theorem appendCrcToTxb_chip (s : State) : (appendCrcToTxb s).chip = s.chip := rfl
@[simp] theorem appendCrcToTxb_env (s : State) : (appendCrcToTxb s).env = s.env := rfl
@[simp] theorem appendCrcToTxb_log (s : State) : (appendCrcToTxb s).log = s.log := rfl

/-! ## `levelInit` -/
@[simp] theorem levelInit_cfg (s : State) : (levelInit s).cfg = s.cfg := rfl
@[simp] theorem levelInit_host (s : State) : (levelInit s).host = s.host := rfl
@[simp] theorem levelInit_op (s : State) : (levelInit s).op = s.op := rfl
@[simp] theorem levelInit_arg (s : State) : (levelInit s).arg = s.arg := rfl
@[simp] theorem levelInit_prim (s : State) : (levelInit s).prim = s.prim := rfl
@[simp] theorem levelInit_recvTarget (s : State) : (levelInit s).recvTarget = s.recvTarget := rfl
@[simp] theorem levelInit_seq (s : State) : (levelInit s).seq = s.seq := rfl
@[simp] theorem levelInit_stack (s : State) : (levelInit s).stack = s.stack := rfl
@[simp] theorem levelInit_reg (s : State) : (levelInit s).reg = s.reg := rfl
@[simp] theorem levelInit_sel (s : State) :
    (levelInit s).sel =
      { s.sel with buf := [s.cfg.selCl s.sel.level, 0, 0, 0, 0, 0, 0, 0, 0], kb := 0,
                               att := 0, collpos := 0 } := rfl
@[simp] theorem levelInit_chip (s : State) : (levelInit s).chip = s.chip := rfl
@[simp] theorem levelInit_env (s : State) : (levelInit s).env = s.env := rfl
@[simp] theorem levelInit_log (s : State) : (levelInit s).log = s.log := rfl

/-! ## `latchExchange` -/
@[simp] theorem latchExchange_cfg (cmd w : Byte) (send : List Byte) (target : RecvTarget)
    (t r : Nat) (k : Bool) (s : State) :
    (latchExchange cmd w send target t r k s).cfg = s.cfg := rfl
@[simp] theorem latchExchange_host (cmd w : Byte) (send : List Byte) (target : RecvTarget)
    (t r : Nat) (k : Bool) (s : State) :
    (latchExchange cmd w send target t r k s).host = s.host := rfl
@[simp] theorem latchExchange_op (cmd w : Byte) (send : List Byte) (target : RecvTarget)
    (t r : Nat) (k : Bool) (s : State) :
    (latchExchange cmd w send target t r k s).op = s.op := rfl
@[simp] theorem latchExchange_arg (cmd w : Byte) (send : List Byte) (target : RecvTarget)
    (t r : Nat) (k : Bool) (s : State) :
    (latchExchange cmd w send target t r k s).arg =
      { s.arg with cmd := cmd, waitFlags := w, txLastBits := t, rxAlign := r, checkCrc := k } := rfl
@[simp] theorem latchExchange_prim (cmd w : Byte) (send : List Byte) (target : RecvTarget)
    (t r : Nat) (k : Bool) (s : State) :
    (latchExchange cmd w send target t r k s).prim = s.prim := rfl
@[simp] theorem latchExchange_recvTarget (cmd w : Byte) (send : List Byte) (target : RecvTarget)
    (t r : Nat) (k : Bool) (s : State) :
    (latchExchange cmd w send target t r k s).recvTarget = target := rfl
@[simp] theorem latchExchange_seq (cmd w : Byte) (send : List Byte) (target : RecvTarget)
    (t r : Nat) (k : Bool) (s : State) :
    (latchExchange cmd w send target t r k s).seq = s.seq := rfl
@[simp] theorem latchExchange_stack (cmd w : Byte) (send : List Byte) (target : RecvTarget)
    (t r : Nat) (k : Bool) (s : State) :
    (latchExchange cmd w send target t r k s).stack = s.stack := rfl
@[simp] theorem latchExchange_reg (cmd w : Byte) (send : List Byte) (target : RecvTarget)
    (t r : Nat) (k : Bool) (s : State) :
    (latchExchange cmd w send target t r k s).reg = { s.reg with txb := send } := rfl
@[simp] theorem latchExchange_sel (cmd w : Byte) (send : List Byte) (target : RecvTarget)
    (t r : Nat) (k : Bool) (s : State) :
    (latchExchange cmd w send target t r k s).sel = s.sel := rfl
@[simp] theorem latchExchange_chip (cmd w : Byte) (send : List Byte) (target : RecvTarget)
    (t r : Nat) (k : Bool) (s : State) :
    (latchExchange cmd w send target t r k s).chip = s.chip := rfl
@[simp] theorem latchExchange_env (cmd w : Byte) (send : List Byte) (target : RecvTarget)
    (t r : Nat) (k : Bool) (s : State) :
    (latchExchange cmd w send target t r k s).env = s.env := rfl
@[simp] theorem latchExchange_log (cmd w : Byte) (send : List Byte) (target : RecvTarget)
    (t r : Nat) (k : Bool) (s : State) :
    (latchExchange cmd w send target t r k s).log = s.log := rfl

/-! ## `deliver` -/

@[simp] theorem deliver_cfg (r : Res) (s : State) : (deliver r s).cfg = s.cfg := rfl
@[simp] theorem deliver_host (r : Res) (s : State) :
    (deliver r s).host = { s.host with result := some (portResult s.op r) } := rfl
@[simp] theorem deliver_op (r : Res) (s : State) : (deliver r s).op = 0 := rfl
@[simp] theorem deliver_arg (r : Res) (s : State) : (deliver r s).arg = { } := rfl
@[simp] theorem deliver_prim (r : Res) (s : State) : (deliver r s).prim = { } := rfl
@[simp] theorem deliver_recvTarget (r : Res) (s : State) : (deliver r s).recvTarget = .absent := rfl
@[simp] theorem deliver_seq (r : Res) (s : State) : (deliver r s).seq = .idle := rfl
@[simp] theorem deliver_stack (r : Res) (s : State) : (deliver r s).stack = [] := rfl
@[simp] theorem deliver_reg (r : Res) (s : State) : (deliver r s).reg = { } := rfl
@[simp] theorem deliver_sel (r : Res) (s : State) : (deliver r s).sel = { } := rfl
@[simp] theorem deliver_chip (r : Res) (s : State) : (deliver r s).chip = s.chip := rfl
@[simp] theorem deliver_env (r : Res) (s : State) : (deliver r s).env = s.env := rfl
@[simp] theorem deliver_log (r : Res) (s : State) : (deliver r s).log = s.log := rfl

/-! ## `setRecvBytes`, `exStore`: only the buffer `ARG.recv` denotes, and the host's count, change -/

@[simp] theorem setRecvBytes_cfg (bs : List Byte) (s : State) :
    (setRecvBytes bs s).cfg = s.cfg := by unfold setRecvBytes; split <;> rfl
@[simp] theorem setRecvBytes_op (bs : List Byte) (s : State) :
    (setRecvBytes bs s).op = s.op := by unfold setRecvBytes; split <;> rfl
@[simp] theorem setRecvBytes_arg (bs : List Byte) (s : State) :
    (setRecvBytes bs s).arg = s.arg := by unfold setRecvBytes; split <;> rfl
@[simp] theorem setRecvBytes_prim (bs : List Byte) (s : State) :
    (setRecvBytes bs s).prim = s.prim := by unfold setRecvBytes; split <;> rfl
@[simp] theorem setRecvBytes_recvTarget (bs : List Byte) (s : State) :
    (setRecvBytes bs s).recvTarget = s.recvTarget := by unfold setRecvBytes; split <;> rfl
@[simp] theorem setRecvBytes_seq (bs : List Byte) (s : State) :
    (setRecvBytes bs s).seq = s.seq := by unfold setRecvBytes; split <;> rfl
@[simp] theorem setRecvBytes_stack (bs : List Byte) (s : State) :
    (setRecvBytes bs s).stack = s.stack := by unfold setRecvBytes; split <;> rfl
@[simp] theorem setRecvBytes_chip (bs : List Byte) (s : State) :
    (setRecvBytes bs s).chip = s.chip := by unfold setRecvBytes; split <;> rfl
@[simp] theorem setRecvBytes_env (bs : List Byte) (s : State) :
    (setRecvBytes bs s).env = s.env := by unfold setRecvBytes; split <;> rfl
@[simp] theorem setRecvBytes_log (bs : List Byte) (s : State) :
    (setRecvBytes bs s).log = s.log := by unfold setRecvBytes; split <;> rfl
@[simp] theorem exStore_cfg (d : List Byte) (s : State) : (exStore d s).cfg = s.cfg := by simp [exStore]
@[simp] theorem exStore_op (d : List Byte) (s : State) : (exStore d s).op = s.op := by simp [exStore]
@[simp] theorem exStore_arg (d : List Byte) (s : State) : (exStore d s).arg = s.arg := by simp [exStore]
@[simp] theorem exStore_prim (d : List Byte) (s : State) : (exStore d s).prim = s.prim := by simp [exStore]
@[simp] theorem exStore_recvTarget (d : List Byte) (s : State) : (exStore d s).recvTarget = s.recvTarget := by simp [exStore]
@[simp] theorem exStore_seq (d : List Byte) (s : State) : (exStore d s).seq = s.seq := by simp [exStore]
@[simp] theorem exStore_stack (d : List Byte) (s : State) : (exStore d s).stack = s.stack := by simp [exStore]
@[simp] theorem exStore_chip (d : List Byte) (s : State) : (exStore d s).chip = s.chip := by simp [exStore]
@[simp] theorem exStore_env (d : List Byte) (s : State) : (exStore d s).env = s.env := by simp [exStore]
@[simp] theorem exStore_log (d : List Byte) (s : State) : (exStore d s).log = s.log := by simp [exStore]
@[simp] theorem setRecvBytes_result (bs : List Byte) (s : State) :
    (setRecvBytes bs s).host.result = s.host.result := by unfold setRecvBytes; split <;> rfl
@[simp] theorem setRecvBytes_selState (bs : List Byte) (s : State) :
    (setRecvBytes bs s).sel.state = s.sel.state := by unfold setRecvBytes; split <;> rfl
@[simp] theorem exStore_result (d : List Byte) (s : State) :
    (exStore d s).host.result = s.host.result := by
  simp only [exStore, setHostOutput_host]; split <;> simp
@[simp] theorem exStore_selState (d : List Byte) (s : State) :
    (exStore d s).sel.state = s.sel.state := by simp [exStore]

end Sys2Proof.Machine
end

