-- ==== Sys2Proof/Laws/Memory.lean ====
section
/-! SUPPORT. The record of the register space: a read after a write, the canonical form kept by every
operation, and the record at reset. -/

namespace Sys2Proof.Machine

theorem Memory.read_write_same (m : List Host.Cell) (k : Nat) (v : Byte) :
    Memory.read (Memory.write m k v) k = some v := by
  induction m with
  | nil => simp [Memory.write, Memory.read]
  | cons x rest ih =>
    obtain ⟨a, b⟩ := x
    simp only [Memory.write]
    split
    · simp [Memory.read]
    · split
      · simp [Memory.read]
      · have : a ≠ k := by omega
        simp [Memory.read, this, ih]

theorem Memory.read_write_other (m : List Host.Cell) {j k : Nat} (v : Byte) (h : j ≠ k) :
    Memory.read (Memory.write m k v) j = Memory.read m j := by
  induction m with
  | nil => simp [Memory.write, Memory.read, Ne.symm h]
  | cons x rest ih =>
    obtain ⟨a, b⟩ := x
    simp only [Memory.write]
    split
    · simp [Memory.read, Ne.symm h]
    · split
      · subst_vars; simp [Memory.read, Ne.symm h]
      · simp [Memory.read, ih]

/-- Every entry of the record after a write was there before or is the one written. -/
theorem Memory.mem_write {m : List Host.Cell} {k : Nat} {v : Byte} {x : Host.Cell}
    (h : x ∈ Memory.write m k v) : x ∈ m ∨ x = (k, v) := by
  induction m with
  | nil => simpa [Memory.write] using h
  | cons y rest ih =>
    obtain ⟨a, b⟩ := y
    simp only [Memory.write] at h
    split at h
    · simp only [List.mem_cons] at h ⊢; tauto
    · split at h
      · simp only [List.mem_cons] at h ⊢; tauto
      · simp only [List.mem_cons] at h ⊢
        rcases h with h | h
        · tauto
        · have := ih h; tauto

/-- A write keeps the canonical form. -/
theorem Memory.write_wf {m : List Host.Cell} {k : Nat} (v : Byte) (hk : k < 256)
    (h : Memory.wf m) : Memory.wf (Memory.write m k v) := by
  refine ⟨?_, fun x hx => ?_⟩
  · obtain ⟨h, -⟩ := h
    induction m with
    | nil => simp [Memory.write]
    | cons y rest ih =>
      obtain ⟨a, b⟩ := y
      simp only [List.pairwise_cons] at h
      simp only [Memory.write]
      split
      · simp only [List.pairwise_cons, List.mem_cons]
        refine ⟨?_, h⟩
        rintro x (rfl | hx)
        · assumption
        · have := h.1 x hx; omega
      · split
        · subst_vars
          simp only [List.pairwise_cons]
          exact ⟨h.1, h.2⟩
        · simp only [List.pairwise_cons]
          refine ⟨fun x hx => ?_, ih h.2⟩
          rcases Memory.mem_write hx with hx | rfl
          · exact h.1 x hx
          · simp only; omega
  · rcases Memory.mem_write hx with hx | rfl
    · exact h.2 x hx
    · exact hk

theorem ChipSide.putByte_wf {c : Config} {ch : ChipSide} (addr v : Byte) (h : Memory.wf ch.written) :
    Memory.wf (ch.putByte c addr v).written := by
  unfold ChipSide.putByte
  split
  · exact h
  · exact Memory.write_wf v addr.isLt h

/-- An acknowledged transaction keeps the canonical form. -/
theorem ChipSide.put_wf {c : Config} {ch : ChipSide} (t : Tx) (h : Memory.wf ch.written) :
    Memory.wf (ch.put c t).written := by
  cases t with
  | rd a => exact h
  | rdb a n => exact h
  | wr a v => exact ChipSide.putByte_wf a v h
  | wrb a bs =>
    simp only [ChipSide.put]
    induction bs generalizing ch with
    | nil => exact h
    | cons b bs ih => exact ih (ChipSide.putByte_wf a b h)

/-- A byte put at one address leaves the record of every other address alone. -/
theorem ChipSide.putByte_read_other {c : Config} {ch : ChipSide} {a : Byte} (v : Byte) {j : Nat}
    (h : j ≠ a.toNat) :
    Memory.read (ch.putByte c a v).written j = Memory.read ch.written j := by
  unfold ChipSide.putByte
  split
  · rfl
  · exact Memory.read_write_other _ v h

/-- A transaction leaves the record of every other address alone. -/
theorem ChipSide.put_read_other {c : Config} {ch : ChipSide} (t : Tx) {j : Nat}
    (h : j ≠ t.addr.toNat) :
    Memory.read (ch.put c t).written j = Memory.read ch.written j := by
  cases t with
  | rd a => rfl
  | rdb a n => rfl
  | wr a v => exact ChipSide.putByte_read_other v h
  | wrb a bs =>
    simp only [ChipSide.put]
    induction bs generalizing ch with
    | nil => rfl
    | cons b bs ih => exact (ih (ch := ch.putByte c a b) h).trans (ChipSide.putByte_read_other b h)

/-- The bytes of a frame go into the FIFO in order. -/
theorem ChipSide.put_fifo {c : Config} {ch : ChipSide} (bs : List Byte) :
    (ch.put c (.wrb aFifoData bs)) = { ch with fifoLoad := ch.fifoLoad ++ bs } := by
  simp only [ChipSide.put]
  induction bs generalizing ch with
  | nil => simp
  | cons b bs ih =>
    rw [List.foldl_cons, ih]
    simp [ChipSide.putByte]

/-- A history keeps the canonical form. -/
theorem chipAfter_wf {c : Config} {ch : ChipSide} (events : List Event) (h : Memory.wf ch.written) :
    Memory.wf (chipAfter c ch events).written := by
  induction events with
  | nil => exact h
  | cons e es ih =>
    match e with
    | .tx t (some _) => exact ChipSide.put_wf t ih
    | .tx _ none => exact ih
    | .now _ => exact ih

theorem reset_memory_wf : Memory.wf State.reset.chip.written := by decide

end Sys2Proof.Machine
end

