-- ==== Sys2Proof/Laws/Env.lean ====
section
/-! SUPPORT. The environment's answers: their lengths, answers that were laid down, and the law of the
time port. -/

namespace Sys2Proof.Machine

@[simp] theorem freeBytes_length (k n : Nat) : (freeBytes k n).length = n := by
  induction n generalizing k with
  | zero => rfl
  | succ n ih => simp [freeBytes, ih]

@[simp] theorem suppliedBytes_length (k n : Nat) (bs : List Byte) :
    (suppliedBytes k n bs).length = n := by
  simp only [suppliedBytes, List.length_append, List.length_take, freeBytes_length]; omega

/-- An answer of the length asked for comes back as it is. -/
theorem suppliedBytes_full {k n : Nat} {bs : List Byte} (h : bs.length = n) :
    suppliedBytes k n bs = bs := by
  subst h; simp [suppliedBytes, freeBytes]

/-- A transaction brings back exactly as many bytes as it asked for. -/
theorem Env.answer_length {e : Env} {n : Nat} {bs : List Byte} (h : e.answer n = some bs) :
    bs.length = n := by
  unfold Env.answer at h
  split at h
  · cases h; simp
  · cases h
  · split at h
    · cases h; simp
    · cases h

/-- An answer that was laid down with the right length is the one that comes back. -/
theorem Env.answer_laid {e : Env} {n : Nat} {bs : List Byte} {rest : List Answer}
    (h : e.answers = .ok bs :: rest) (hn : bs.length = n) : e.answer n = some bs := by
  simp [Env.answer, h, suppliedBytes_full hn]

theorem Env.answer_failed {e : Env} {n : Nat} {rest : List Answer}
    (h : e.answers = .transportError :: rest) : e.answer n = none := by
  simp [Env.answer, h]

@[simp] theorem Env.afterAnswer_answers (e : Env) (n : Nat) :
    (e.afterAnswer n).answers = e.answers.tail := rfl
@[simp] theorem Env.afterAnswer_now (e : Env) (n : Nat) : (e.afterAnswer n).now = e.now := rfl
@[simp] theorem Env.afterAnswer_ticks (e : Env) (n : Nat) : (e.afterAnswer n).ticks = e.ticks := rfl
@[simp] theorem Env.afterSample_answers (e : Env) : e.afterSample.answers = e.answers := rfl
@[simp] theorem Env.afterSample_now (e : Env) : e.afterSample.now = e.sample := rfl
@[simp] theorem Env.afterSample_ticks (e : Env) : e.afterSample.ticks = e.ticks.tail := rfl

/-- Samples never decrease. -/
theorem Env.now_le_sample (e : Env) : e.now ≤ e.sample := by
  unfold Env.sample; split <;> omega

end Sys2Proof.Machine
end

