-- ==== Sys2Proof/Laws/Ops.lean ====
section
/-! SUPPORT. What each shared operation can do, said once: one transaction, the poll loop, the ending of
an operation, the acceptance of an instruction. -/

namespace Sys2Proof.Machine

/-! ## One transaction -/

theorem onTx_ok {t : Tx} {k : List Byte → State → Flow} {s : State} {bs : List Byte}
    (h : s.answer t = some bs) : onTx t k s = k bs (s.afterTx t) := by
  simp [onTx, h]

theorem onTx_failed {t : Tx} {k : List Byte → State → Flow} {s : State} (h : s.answer t = none) :
    onTx t k s = .done (.err .transportError) (s.afterTx t) := by
  simp [onTx, h, raise]

/-- Everything a transaction can lead to: its continuation, with as many bytes as were asked for, or
`TransportError` at once. -/
theorem onTx_ind {P : Flow → Prop} {t : Tx} {k : List Byte → State → Flow} {s : State}
    (hok : ∀ bs, s.answer t = some bs → bs.length = t.readLen → P (k bs (s.afterTx t)))
    (herr : s.answer t = none → P (.done (.err .transportError) (s.afterTx t))) :
    P (onTx t k s) := by
  cases h : s.answer t with
  | none => rw [onTx_failed h]; exact herr h
  | some bs => rw [onTx_ok h]; exact hok bs h (Env.answer_length h)

/-- A single read whose answer was laid down. -/
theorem readThen_ok {a v : Byte} {k : Byte → State → Flow} {s : State} {rest : List Answer}
    (h : s.env.answers = gave v :: rest) : readThen a k s = k v (s.afterTx (.rd a)) := by
  rw [readThen, onTx_ok (Env.answer_laid h rfl)]; rfl

/-- A single write that returns. -/
theorem writeThen_ok {a v : Byte} {next : Seq} {s : State} {rest : List Answer}
    (h : s.env.answers = wrote :: rest) :
    writeThen a v next s = .running (goto next (s.afterTx (.wr a v))) := by
  rw [writeThen, onTx_ok (Env.answer_laid h rfl)]

/-- The history after a transaction whose answer was laid down. -/
theorem afterTx_log_ok {t : Tx} {s : State} {bs : List Byte} {rest : List Answer}
    (h : s.env.answers = .ok bs :: rest) (hn : bs.length = t.readLen) :
    (s.afterTx t).log = .tx t (some bs) :: s.log := by
  rw [afterTx_log, State.answer, Env.answer_laid h hn]

/-- The record after a transaction whose answer was laid down. -/
theorem afterTx_chip_ok {t : Tx} {s : State} {bs : List Byte} {rest : List Answer}
    (h : s.env.answers = .ok bs :: rest) (hn : bs.length = t.readLen) :
    (s.afterTx t).chip = s.chip.put s.cfg t := by
  rw [afterTx_chip, State.answer, Env.answer_laid h hn]; rfl

/-- A transaction keeps the record canonical. -/
theorem afterTx_wf {s : State} (t : Tx) (h : Memory.wf s.chip.written) :
    Memory.wf (s.afterTx t).chip.written := by
  rw [afterTx_chip]
  split
  · exact ChipSide.put_wf t h
  · exact h

/-- A transaction leaves the record of every other address alone. -/
theorem afterTx_read_other {s : State} (t : Tx) {j : Nat} (h : j ≠ t.addr.toNat) :
    Memory.read (s.afterTx t).chip.written j = Memory.read s.chip.written j := by
  rw [afterTx_chip]
  split
  · exact ChipSide.put_read_other t h
  · rfl

/-! ## The poll loop -/

theorem pollEnter_eq (head : Seq) (s : State) :
    pollEnter head s =
      .running (goto head { s.afterNow with reg := { s.reg with t0 := s.env.sample } }) := rfl

/-- A poll read in the terms of its three outcomes (40_transport R127). -/
theorem pollRead_ok {a d f v : Byte} {again : Seq} {k : State → Flow} {s : State}
    {rest : List Answer} (h : s.env.answers = gave v :: rest) :
    pollRead a d f again k s =
      (let u := { s.afterTx (.rd a) with reg := { s.reg with pollv := v } }
       if anyBit v d then k u
       else if anyBit v f then .done (.err .timeout) u
       else .running (goto again u)) := by
  rw [pollRead, readThen_ok h]; rfl

theorem pollTime_eq (deadline : Nat) (head : Seq) (s : State) :
    pollTime deadline head s =
      if deadline ≤ s.env.sample - s.reg.t0 then .done (.err .timeout) s.afterNow
      else .running (goto head s.afterNow) := rfl

/-! ## Bulk transfers of no bytes -/

theorem bulkElided_iff {c : Config} {n : Nat} :
    bulkElided c n = true ↔ n = 0 ∧ c.zeroLenBulk = .elide := by
  simp [bulkElided]

theorem bulkElided_pos {c : Config} {n : Nat} (h : n ≠ 0) : bulkElided c n = false := by
  simp [bulkElided, h]

/-! ## The ending of an operation -/

@[simp] theorem land_running (s : State) : land (.running s) = s := rfl
@[simp] theorem land_done (r : Res) (s : State) : land (.done r s) = deliver r s := rfl
@[simp] theorem settle_running (s : State) : settle (.running s) = s := rfl
@[simp] theorem settle_done (r : Res) (s : State) : settle (.done r s) = unwind s.stack r s := rfl
@[simp] theorem unwind_nil (r : Res) (s : State) : unwind [] r s = deliver r s := rfl

theorem unwind_running {l : Ret} {rest : List Ret} {r : Res} {s u : State}
    (h : resume l r { s with stack := rest } = .running u) : unwind (l :: rest) r s = u := by
  simp [unwind, h]

theorem unwind_done {l : Ret} {rest : List Ret} {r r' : Res} {s u : State}
    (h : resume l r { s with stack := rest } = .done r' u) :
    unwind (l :: rest) r s = unwind rest r' u := by
  simp [unwind, h]

/-- The end of an operation is at rest: no working register survives (10_state R22). -/
theorem deliver_atRest (r : Res) (s : State) : AtRest (deliver r s) :=
  ⟨rfl, rfl, rfl, rfl, rfl, rfl, rfl, rfl⟩

/-- The result on the port is `Ok` or the error itself. -/
theorem portResult_err (op : Byte) (e : ExecError) : portResult op (.err e) = .err e := rfl

theorem portResult_other {op : Byte} (h : op ∉ opsReturningNothing) (r : Res) :
    portResult op r = r := by
  cases r with
  | ok v => simp only [portResult, h, if_false]
  | err e => rfl

/-! ## Operands beyond what the rules speak of -/

@[simp] theorem uidTail_length (u : Uid) : (uidTail u).length = 4 := rfl

theorem uidByte_present {u : Uid} {i : Nat} {b : Byte} (h : u.bytes[i]? = some b) :
    uidByte u i = b := by
  simp [uidByte, List.getD, h]

theorem verifyVerdict_short {r : List Byte} (w : Word16) (h : r.length < 2) :
    verifyVerdict r w = Config.shortVerify r w := by
  simp [verifyVerdict, h]

theorem verifyVerdict_long {r : List Byte} (w : Word16) (h : 2 ≤ r.length) :
    verifyVerdict r w = crcMatches r r.length w := by
  simp [verifyVerdict, Nat.not_lt.mpr h]

/-! ## Acceptance -/

theorem accept_idle {op : Byte} {ports : Args} {start : State → Flow} {s : State}
    (h : s.seq = .idle) :
    accept op ports start s = .next (land (start (s.latched op ports))) := by
  simp [accept, h]

theorem accept_busy {op : Byte} {ports : Args} {start : State → Flow} {s : State}
    (h : s.seq ≠ .idle) : accept op ports start s = .fault .interleavedOperation := by
  simp [accept, h]

/-- Everything an acceptance can answer. -/
theorem accept_next {op : Byte} {ports : Args} {start : State → Flow} {s t : State}
    (h : accept op ports start s = .next t) :
    s.seq = .idle ∧ t = land (start (s.latched op ports)) := by
  unfold accept at h
  split at h
  · cases h; exact ⟨‹_›, rfl⟩
  · cases h

end Sys2Proof.Machine
end

