-- ==== Sys2Proof/Laws/Runs.lean ====
section
/-! SUPPORT. Runs: how they are put together, and the nested operations as runs of known length whose
answers are laid down: `calculate_crc`, the sending and the receiving half of `execute`. -/

namespace Sys2Proof.Machine

/-! ## Putting runs together -/

theorem step_busy {s : State} (h : s.seq ≠ .idle) : step s = .next (advance s) := by
  simp [step, h]

theorem reaches_zero (s : State) : Reaches 0 s s := rfl

theorem reaches_succ {k : Nat} {s u t : State} (h : step s = .next u) (h' : Reaches k u t) :
    Reaches (k + 1) s t := by
  simp only [Reaches, Host.Core.run, core, h] at *
  exact h'

theorem reaches_trans {j k : Nat} {s u t : State} (h : Reaches j s u) (h' : Reaches k u t) :
    Reaches (j + k) s t := by
  induction j generalizing s with
  | zero => cases h; simpa using h'
  | succ j ih =>
    rw [Nat.add_right_comm]
    simp only [Reaches, Host.Core.run] at h ⊢
    cases hs : core.step s with
    | next v => simp only [hs] at h ⊢; exact ih h
    | fault r => simp [hs] at h
    | refused r => simp [hs] at h

/-- A step of the operation in progress, then the rest of the run. -/
theorem reaches_busy {k : Nat} {s t : State} (h : s.seq ≠ .idle) (h' : Reaches k (advance s) t) :
    Reaches (k + 1) s t :=
  reaches_succ (step_busy h) h'

/-! ## Nested operations -/

set_option maxRecDepth 4000 in
/-- `calculate_crc` from its first step to the rule that takes its result (41_crc R141 to R149), when
the first poll read completes. -/
theorem crc_reaches {s : State} {x : CrcReads} {rest : List Answer}
    (hseq : s.seq = .r141) (hd : x.Completes s.cfg)
    (ha : s.env.answers = crcAnswers s.cfg s.arg.buffer x ++ rest) :
    ∃ env t, env.answers = rest ∧ env.now = t ∧
      Reaches ((crcAnswers s.cfg s.arg.buffer x).length + 1) s
        (unwind s.stack (.ok (.crc (x.value s.cfg)))
          { s with
            seq := .r149
            reg := { s.reg with t0 := t, pollv := x.poll, msb := msbFirst s.cfg x.mode,
                                scratch := x.high, crc := x.value s.cfg }
            env := env
            chip := chipAfter s.cfg s.chip (crcEvents s.cfg s.arg.buffer x t)
            log := crcEvents s.cfg s.arg.buffer x t ++ s.log }) := by
  obtain ⟨cfg, host, op, arg, prim, rt, seq, stack, reg, sel, chip, env, log⟩ := s
  obtain ⟨answers, ticks, now, draws⟩ := env
  simp only at hseq hd ha
  subst hseq ha
  by_cases hb : bulkElided cfg arg.buffer.length
  all_goals
    refine ⟨?_, ?_, ?_, ?_, ?_⟩
    rotate_left 4
    focus
      simp [Reaches, Host.Core.run, core, step, advance, settle, stepLabel, crcIdle, crcClear,
        crcFlush, crcLoad, crcStart, crcMode, crcPollEnter, crcPollRead, crcReadHigh, crcReadLow,
        crcFinish, writeThen, readThen, onTx, State.answer, State.afterTx, State.afterNow,
        Env.answer, Env.afterAnswer, Env.afterSample, crcEvents, crcAnswers, loadAnswers, loadEvents,
        goto, Tx.readLen, suppliedBytes, freeBytes, bulkLabel, hb, pollEnter, pollRead, firstByte,
        hd, ret, CrcReads.value, chipAfter, ChipSide.put]
      rfl
    all_goals rfl

set_option maxRecDepth 4000 in
/-- `execute` from its first step to the error snapshot (42_executor R161 to R168), when the first
poll read completes. -/
theorem send_reaches {s : State} {x : ExReads} {rest : List Answer}
    (hseq : s.seq = .r161) (hd : anyBit x.poll s.arg.waitFlags = true)
    (ha : s.env.answers = sendAnswers s.cfg s.arg.cmd s.reg.txb x ++ rest) :
    ∃ env t, env.answers = rest ∧ env.now = t ∧
      Reaches ((sendAnswers s.cfg s.arg.cmd s.reg.txb x).length + 1) s
        { s with
          seq := .r169
          reg := { s.reg with t0 := t, pollv := x.poll,
                              scratch := if s.arg.cmd = s.cfg.cmdTransceive then x.framing
                                         else s.reg.scratch }
          env := env
          chip := chipAfter s.cfg s.chip
            (sendEvents s.cfg s.arg.cmd s.reg.txb s.arg.rxAlign s.arg.txLastBits x t)
          log := sendEvents s.cfg s.arg.cmd s.reg.txb s.arg.rxAlign s.arg.txLastBits x t ++ s.log } := by
  obtain ⟨cfg, host, op, arg, prim, rt, seq, stack, reg, sel, chip, env, log⟩ := s
  obtain ⟨answers, ticks, now, draws⟩ := env
  simp only at hseq hd ha
  subst hseq ha
  by_cases hb : bulkElided cfg reg.txb.length <;> by_cases hc : arg.cmd = cfg.cmdTransceive
  all_goals
    refine ⟨?_, ?_, ?_, ?_, ?_⟩
    rotate_left 4
    focus
      simp [Reaches, Host.Core.run, core, step, advance, settle, stepLabel, exIdle, exClear, exFlush,
        exLoad, exFraming, exCommand, exStartRead, exStartWrite, exPollEnter, exPollRead, writeThen,
        readThen, onTx, State.answer, State.afterTx, State.afterNow, Env.answer, Env.afterAnswer,
        Env.afterSample, sendEvents, sendAnswers, startAnswers, startEvents, loadAnswers, loadEvents,
        goto, Tx.readLen, suppliedBytes, freeBytes, bulkLabel, hb, hc, pollEnter, pollRead, firstByte,
        hd, chipAfter, ChipSide.put]
      and_intros <;> rfl
    all_goals rfl

/-- What `execute` has written when its answer has been read (42_executor R169 to R172): snapshot,
counts, the bytes laid into the receive buffer. -/
def received (x : ExReads) (s : State) : State :=
  let s := exStore x.bytes { s with reg := { s.reg with errsnap := x.error, n := x.bytes.length } }
  setHostOutput (fun h => { h with rxLastBits := rxLastCount s.cfg x.control })
    { s with reg := { s.reg with rxlast := rxLastCount s.cfg x.control } }

set_option maxRecDepth 4000 in
/-- The receiving half of `execute` from the error snapshot to its classification (42_executor R169 to
R172), when no protocol-class bit is set and the answer fits. -/
theorem recv_reaches {s : State} {x : ExReads} {rest : List Answer}
    (hseq : s.seq = .r169) (hr : s.recvTarget ≠ .absent)
    (he : (errFlags s.cfg x.error).protocolClass = false) (hf : x.Fits s.cfg (recvBytes s).length)
    (ha : s.env.answers = recvAnswers s.cfg x ++ rest) :
    ∃ env, env.answers = rest ∧ env.now = s.env.now ∧
      Reaches (recvAnswers s.cfg x).length s
        (settle (exClassify (received x
          { s with
            seq := .r172
            env := env
            chip := chipAfter s.cfg s.chip (recvEvents s.cfg x)
            log := recvEvents s.cfg x ++ s.log }))) := by
  obtain ⟨cfg, host, op, arg, prim, rt, seq, stack, reg, sel, chip, env, log⟩ := s
  obtain ⟨answers, ticks, now, draws⟩ := env
  obtain ⟨f, d, e, lv, bs, ct⟩ := x
  obtain ⟨hn, hcap⟩ := hf
  simp only at hseq hr he hn hcap ha
  subst hseq ha
  cases rt with
  | absent => exact absurd rfl hr
  | _ =>
    simp only [recvBytes, List.length_drop, List.length_take] at hcap
    have hnc := Nat.not_lt.mpr hcap
    by_cases hb : bulkElided cfg bs.length
    · obtain rfl : bs = [] := List.length_eq_zero_iff.mp (bulkElided_iff.mp hb).1
      simp only [List.length_nil] at hb hn
      refine ⟨?_, ?_, ?_, ?_⟩
      rotate_left 3
      focus
        simp [Reaches, Host.Core.run, core, step, advance, stepLabel, exError, exLength, exControl,
          readThen, onTx, State.answer, State.afterTx, Env.answer, Env.afterAnswer,
          recvEvents, recvAnswers, fetchAnswers, fetchEvents, goto, Tx.readLen, suppliedBytes,
          freeBytes, hb, firstByte, he, hn, recvBytes, recvPresent, received, exStore, setRecvBytes,
          setHostOutput, chipAfter, ChipSide.put]
        rfl
      all_goals rfl
    · refine ⟨?_, ?_, ?_, ?_⟩
      rotate_left 3
      focus
        simp [Reaches, Host.Core.run, core, step, advance, stepLabel, exError, exLength, exData,
          exControl, readThen, onTx, State.answer, State.afterTx, Env.answer, Env.afterAnswer,
          recvEvents, recvAnswers, fetchAnswers, fetchEvents, goto, Tx.readLen, suppliedBytes,
          freeBytes, hb, firstByte, he, hn, hnc, recvBytes, recvPresent, received, exStore,
          setRecvBytes, setHostOutput, chipAfter, ChipSide.put]
        rfl
      all_goals rfl

/-- The receiving half of `execute` without a receive buffer: the error snapshot alone (42_executor
R169, R170). -/
theorem norecv_reaches {s : State} {e : Byte} {rest : List Answer}
    (hseq : s.seq = .r169) (hr : s.recvTarget = .absent)
    (he : (errFlags s.cfg e).protocolClass = false) (ha : s.env.answers = gave e :: rest) :
    ∃ env, env.answers = rest ∧ env.now = s.env.now ∧
      Reaches 1 s
        (settle (exClassify (exNoRecv
          { s with
            reg := { s.reg with errsnap := e }
            env := env
            log := evR aError e :: s.log }))) := by
  obtain ⟨cfg, host, op, arg, prim, rt, seq, stack, reg, sel, chip, env, log⟩ := s
  obtain ⟨answers, ticks, now, draws⟩ := env
  simp only at hseq hr he ha
  subst hseq hr ha
  refine ⟨?_, ?_, ?_, ?_⟩
  rotate_left 3
  focus
    simp [Reaches, Host.Core.run, core, step, advance, stepLabel, exError, readThen, onTx,
      State.answer, State.afterTx, Env.answer, Env.afterAnswer, Tx.readLen, suppliedBytes, freeBytes,
      firstByte, he, recvPresent, ChipSide.put]
    rfl
  all_goals rfl

/-! ## The classification (42_executor R173 to R176) -/

theorem exClassify_collision {s : State} (h : (errFlags s.cfg s.reg.errsnap).collision = true) :
    exClassify s = .done (.err .collision) s := by
  simp [exClassify, h, raise]

theorem exClassify_unchecked {s : State} (h : (errFlags s.cfg s.reg.errsnap).collision = false)
    (hk : s.arg.checkCrc = false ∨ s.recvTarget = .absent) :
    exClassify s = .done (.ok (.received s.reg.n (recvBytes s) s.reg.rxlast)) s := by
  have : (s.arg.checkCrc && recvPresent s) = false := by
    rcases hk with hk | hk <;> simp [hk, recvPresent]
  simp [exClassify, h, this, exReturn, ret]

theorem exClassify_checked {s : State} (h : (errFlags s.cfg s.reg.errsnap).collision = false)
    (hk : s.arg.checkCrc = true) (hr : s.recvTarget ≠ .absent) (hn : 2 ≤ s.reg.n)
    (hx : s.reg.rxlast = 0) :
    exClassify s = callCrc .r175 ((recvBytes s).take (s.reg.n - 2)) s := by
  have hp : recvPresent s = true := by simpa [recvPresent] using hr
  have : ¬ s.reg.n < 2 := by omega
  simp [exClassify, h, hk, hp, hx, this]

/-! ## Histories -/

theorem chipAfter_append (c : Config) (ch : ChipSide) (a b : List Event) :
    chipAfter c ch (a ++ b) = chipAfter c (chipAfter c ch b) a := by
  simp [chipAfter, List.foldr_append]

theorem chipAfter_nil (c : Config) (ch : ChipSide) : chipAfter c ch [] = ch := rfl

theorem chipAfter_read (c : Config) (ch : ChipSide) (a v : Byte) (es : List Event) :
    chipAfter c ch (evR a v :: es) = chipAfter c ch es := rfl

/-! ## The end of an operation -/

/-- What `deliver` makes of a state, in the terms of `Ends`: the facts the delivered state has to meet
are those the block's registers do not enter into. -/
theorem deliver_ends {s u : State} {r r' : Res} {events : List Event} {rest : List Answer}
    (cfg : u.cfg = s.cfg) (port : u.host.port = s.host.port) (result : portResult u.op r = r')
    (log : u.log = events ++ s.log) (chip : u.chip = chipAfter s.cfg s.chip events)
    (answers : u.env.answers = rest) : Ends s (deliver r u) r' events rest :=
  ⟨deliver_atRest r u, by simp [result], log, chip, answers, cfg, port⟩

/-- `deliver` hands the host nothing but the result. -/
theorem deliver_hostKept {s u : State} (r : Res) (buf : u.host.buf = s.host.buf)
    (recvLen : u.host.recvLen = s.host.recvLen) (rxLastBits : u.host.rxLastBits = s.host.rxLastBits) :
    HostKept s (deliver r u) :=
  ⟨buf, recvLen, rxLastBits⟩

end Sys2Proof.Machine
end

