-- ==== Sys2Proof/Laws/Exchanges.lean ====
section
/-! SUPPORT. The nested operations as runs whose ends are given field by field, for citing instead of
unfolding: `calculate_crc`, an exchange with a receive buffer, one without. -/

namespace Sys2Proof.Machine

/-- What the run of a `calculate_crc` leaves, field by field: `m` is the state in which its result
goes up the return stack (41_crc R141 to R149). -/
structure CrcRun (s m : State) (x : CrcReads) (rest : List Answer) : Prop where
  cfg : m.cfg = s.cfg
  host : m.host = s.host
  op : m.op = s.op
  arg : m.arg = s.arg
  prim : m.prim = s.prim
  recvTarget : m.recvTarget = s.recvTarget
  stack : m.stack = s.stack
  sel : m.sel = s.sel
  reg : m.reg = { s.reg with t0 := m.env.now, pollv := x.poll, msb := msbFirst s.cfg x.mode,
                             scratch := x.high, crc := x.value s.cfg }
  answers : m.env.answers = rest
  chip : m.chip = chipAfter s.cfg s.chip (crcEvents s.cfg s.arg.buffer x m.env.now)
  log : m.log = crcEvents s.cfg s.arg.buffer x m.env.now ++ s.log

/-- `calculate_crc` as a run, its end given field by field. -/
theorem crc_run {s : State} {x : CrcReads} {rest : List Answer}
    (hseq : s.seq = .r141) (hd : x.Completes s.cfg)
    (ha : s.env.answers = crcAnswers s.cfg s.arg.buffer x ++ rest) :
    ∃ m, Reaches ((crcAnswers s.cfg s.arg.buffer x).length + 1) s
      (unwind s.stack (.ok (.crc (x.value s.cfg))) m) ∧ CrcRun s m x rest := by
  obtain ⟨env, t, h1, rfl, hr⟩ := crc_reaches hseq hd ha
  exact ⟨_, hr, rfl, rfl, rfl, rfl, rfl, rfl, rfl, rfl, rfl, h1, rfl, rfl⟩

/-- What the sending half of an exchange leaves, field by field (42_executor R161 to R168). -/
structure SendRun (s m : State) (x : ExReads) (rest : List Answer) : Prop where
  cfg : m.cfg = s.cfg
  host : m.host = s.host
  op : m.op = s.op
  arg : m.arg = s.arg
  prim : m.prim = s.prim
  recvTarget : m.recvTarget = s.recvTarget
  seq : m.seq = .r169
  stack : m.stack = s.stack
  sel : m.sel = s.sel
  reg : m.reg = { s.reg with t0 := m.env.now, pollv := x.poll, scratch := m.reg.scratch }
  answers : m.env.answers = rest
  chip : m.chip = chipAfter s.cfg s.chip
    (sendEvents s.cfg s.arg.cmd s.reg.txb s.arg.rxAlign s.arg.txLastBits x m.env.now)
  log : m.log =
    sendEvents s.cfg s.arg.cmd s.reg.txb s.arg.rxAlign s.arg.txLastBits x m.env.now ++ s.log

/-- The sending half of an exchange as a run, its end given field by field. -/
theorem send_run {s : State} {x : ExReads} {rest : List Answer}
    (hseq : s.seq = .r161) (hd : anyBit x.poll s.arg.waitFlags = true)
    (ha : s.env.answers = sendAnswers s.cfg s.arg.cmd s.reg.txb x ++ rest) :
    ∃ m, Reaches ((sendAnswers s.cfg s.arg.cmd s.reg.txb x).length + 1) s m ∧
      SendRun s m x rest := by
  obtain ⟨env, t, h1, rfl, hr⟩ := send_reaches hseq hd ha
  exact ⟨_, hr, rfl, rfl, rfl, rfl, rfl, rfl, rfl, rfl, rfl, rfl, h1, rfl, rfl⟩

/-- What an exchange with a receive buffer leaves, field by field, where its classification begins
(42_executor R161 to R172). -/
structure ExchangeRun (s m : State) (x : ExReads) (rest : List Answer) : Prop where
  cfg : m.cfg = s.cfg
  port : m.host.port = s.host.port
  result : m.host.result = s.host.result
  buf : m.host.buf =
    (setRecvBytes (receivedInto s.arg.rxAlign (recvBytes s) x.bytes) s).host.buf
  recvLen : m.host.recvLen = if s.recvTarget = .host then x.bytes.length else s.host.recvLen
  rxLastBits : m.host.rxLastBits =
    if s.recvTarget = .host then rxLastCount s.cfg x.control else s.host.rxLastBits
  op : m.op = s.op
  arg : m.arg = s.arg
  prim : m.prim = s.prim
  recvTarget : m.recvTarget = s.recvTarget
  stack : m.stack = s.stack
  sel : m.sel = (setRecvBytes (receivedInto s.arg.rxAlign (recvBytes s) x.bytes) s).sel
  reg : m.reg =
    { s.reg with
      t0 := m.env.now, pollv := x.poll, scratch := m.reg.scratch, errsnap := x.error,
      n := x.bytes.length, rxlast := rxLastCount s.cfg x.control,
      ackb := (setRecvBytes (receivedInto s.arg.rxAlign (recvBytes s) x.bytes) s).reg.ackb }
  answers : m.env.answers = rest
  chip : m.chip = chipAfter s.cfg s.chip
    (exchangeEvents s.cfg s.arg.cmd s.reg.txb s.arg.rxAlign s.arg.txLastBits x m.env.now)
  log : m.log =
    exchangeEvents s.cfg s.arg.cmd s.reg.txb s.arg.rxAlign s.arg.txLastBits x m.env.now ++ s.log

/-- An exchange with a receive buffer as a run up to its classification. -/
theorem exchange_run {s : State} {x : ExReads} {rest : List Answer}
    (hseq : s.seq = .r161) (hd : anyBit x.poll s.arg.waitFlags = true)
    (hr : s.recvTarget ≠ .absent) (he : (errFlags s.cfg x.error).protocolClass = false)
    (hf : x.Fits s.cfg (recvBytes s).length)
    (ha : s.env.answers = exchangeAnswers s.cfg s.arg.cmd s.reg.txb x ++ rest) :
    ∃ m, Reaches ((exchangeAnswers s.cfg s.arg.cmd s.reg.txb x).length + 1) s
      (settle (exClassify m)) ∧ ExchangeRun s m x rest := by
  obtain ⟨u, hu, h⟩ := send_run (rest := recvAnswers s.cfg x ++ rest) hseq hd
    (by rw [ha, exchangeAnswers, List.append_assoc])
  have hb : recvBytes u = recvBytes s := by
    unfold recvBytes; rw [h.recvTarget, h.host, h.sel, h.reg]
  obtain ⟨env, h1, h2, hv⟩ := recv_reaches (x := x) (rest := rest) h.seq
    (by rw [h.recvTarget]; exact hr) (by rw [h.cfg]; exact he) (by rw [h.cfg, hb]; exact hf)
    (by rw [h.answers, h.cfg])
  have hrun := reaches_trans hu hv
  rw [show (sendAnswers s.cfg s.arg.cmd s.reg.txb x).length + 1 + (recvAnswers u.cfg x).length =
      (exchangeAnswers s.cfg s.arg.cmd s.reg.txb x).length + 1 by
    simp only [exchangeAnswers, h.cfg, List.length_append]; omega] at hrun
  refine ⟨_, hrun, ?_⟩
  have hlog := h.log
  have hchip := h.chip
  have hreg := h.reg
  clear hrun hu hv ha hf he
  obtain ⟨cfg, host, op, arg, prim, rt, seq, stack, reg, sel, chip, env', log⟩ := s
  obtain ⟨cfg', host', op', arg', prim', rt', seq', stack', reg', sel', chip', env'', log'⟩ := u
  obtain ⟨rfl, rfl, rfl, rfl, rfl, rfl, -, rfl, rfl, -, -, -, -⟩ := h
  simp only at hreg hlog hchip h2 hr hb
  subst hlog hchip
  obtain ⟨a1, a2, a3, a4, a5, a6, a7, a8, a9, a10⟩ := reg'
  simp only [WorkRegs.mk.injEq] at hreg
  obtain ⟨rfl, rfl, rfl, rfl, rfl, rfl, rfl, rfl, rfl, -⟩ := hreg
  clear hseq hd
  cases rt' with
  | absent => exact absurd rfl hr
  | _ =>
    simp only [received, exStore, setRecvBytes, setHostOutput, recvBytes]
    clear hb
    constructor <;> simp [exchangeEvents, chipAfter_append, h1, h2, setRecvBytes, recvBytes]

/-- What an exchange without a receive buffer leaves, field by field, where its classification begins
(42_executor R161 to R170). -/
structure SilentRun (s m : State) (x : ExReads) (rest : List Answer) : Prop where
  cfg : m.cfg = s.cfg
  host : m.host = s.host
  op : m.op = s.op
  arg : m.arg = s.arg
  prim : m.prim = s.prim
  recvTarget : m.recvTarget = .absent
  stack : m.stack = s.stack
  sel : m.sel = s.sel
  reg : m.reg =
    { s.reg with t0 := m.env.now, pollv := x.poll, scratch := m.reg.scratch, errsnap := x.error,
                 n := 0, rxlast := 0 }
  answers : m.env.answers = rest
  chip : m.chip = chipAfter s.cfg s.chip
    (silentEvents s.cfg s.arg.cmd s.reg.txb s.arg.rxAlign s.arg.txLastBits x m.env.now)
  log : m.log =
    silentEvents s.cfg s.arg.cmd s.reg.txb s.arg.rxAlign s.arg.txLastBits x m.env.now ++ s.log

/-- An exchange without a receive buffer as a run up to its classification. -/
theorem silent_run {s : State} {x : ExReads} {rest : List Answer}
    (hseq : s.seq = .r161) (hd : anyBit x.poll s.arg.waitFlags = true)
    (hr : s.recvTarget = .absent) (he : (errFlags s.cfg x.error).protocolClass = false)
    (ha : s.env.answers = silentAnswers s.cfg s.arg.cmd s.reg.txb x ++ rest) :
    ∃ m, Reaches ((silentAnswers s.cfg s.arg.cmd s.reg.txb x).length + 1) s
      (settle (exClassify m)) ∧ SilentRun s m x rest := by
  obtain ⟨u, hu, h⟩ := send_run (rest := gave x.error :: rest) hseq hd
    (by rw [ha, silentAnswers, List.append_assoc]; rfl)
  obtain ⟨env, h1, h2, hv⟩ := norecv_reaches h.seq (by rw [h.recvTarget]; exact hr)
    (by rw [h.cfg]; exact he) h.answers
  have hrun := reaches_trans hu hv
  rw [show (sendAnswers s.cfg s.arg.cmd s.reg.txb x).length + 1 + 1 =
      (silentAnswers s.cfg s.arg.cmd s.reg.txb x).length + 1 by simp [silentAnswers]] at hrun
  have hreg : u.reg = { s.reg with t0 := env.now, pollv := x.poll, scratch := u.reg.scratch } := by
    rw [h2]; exact h.reg
  refine ⟨_, hrun, ?_⟩
  clear hrun hu hv
  obtain ⟨e1, e2, e3, e4, e5, e6, -, e7, e8, -, -, e9, e10⟩ := h
  constructor <;>
    simp only [exNoRecv, e1, e2, e3, e4, e5, e6, e7, e8, e9, e10, h1, h2, hr, silentEvents,
      List.cons_append]
  · rw [hreg, h2]
  · rfl

end Sys2Proof.Machine
end

