-- ==== Sys2Proof/Laws/Steps.lean ====
section
/-! SUPPORT. What a step can do, said once (20_memory R62): one transaction or one time sample, then
pure computation, which touches neither the environment nor the history nor the record nor the
command port. -/

namespace Sys2Proof.Machine

/-- Pure computation leads from `s` to `u`. -/
structure Pure (s u : State) : Prop where
  cfg : u.cfg = s.cfg
  op : u.op = s.op
  port : u.host.port = s.host.port
  result : u.host.result = s.host.result
  chip : u.chip = s.chip
  env : u.env = s.env
  log : u.log = s.log

theorem Pure.refl (s : State) : Pure s s := ⟨rfl, rfl, rfl, rfl, rfl, rfl, rfl⟩

theorem Pure.trans {s u v : State} (h : Pure s u) (h' : Pure u v) : Pure s v :=
  ⟨h'.cfg.trans h.cfg, h'.op.trans h.op, h'.port.trans h.port, h'.result.trans h.result,
    h'.chip.trans h.chip, h'.env.trans h.env, h'.log.trans h.log⟩

/-- The state at the end of a flow, whichever way it ends. -/
def Flow.state : Flow → State
  | .running s => s
  | .done _ s => s

@[simp] theorem Flow.state_running (s : State) : (Flow.running s).state = s := rfl
@[simp] theorem Flow.state_done (r : Res) (s : State) : (Flow.done r s).state = s := rfl

theorem Pure.mk' {s u : State}
    (h : u.cfg = s.cfg ∧ u.op = s.op ∧ u.host.port = s.host.port ∧ u.host.result = s.host.result ∧
      u.chip = s.chip ∧ u.env = s.env ∧ u.log = s.log) : Pure s u :=
  ⟨h.1, h.2.1, h.2.2.1, h.2.2.2.1, h.2.2.2.2.1, h.2.2.2.2.2.1, h.2.2.2.2.2.2⟩

/-- Pure computation leads from `s` to `u`, where the operation in progress may have ended. -/
structure Settled (s u : State) : Prop where
  cfg : u.cfg = s.cfg
  op : u.op = s.op ∨ AtRest u
  port : u.host.port = s.host.port
  result : u.host.result = s.host.result ∨ AtRest u
  chip : u.chip = s.chip
  env : u.env = s.env
  log : u.log = s.log

theorem Pure.settled {s u : State} (h : Pure s u) : Settled s u :=
  ⟨h.cfg, .inl h.op, h.port, .inl h.result, h.chip, h.env, h.log⟩

theorem Pure.trans_settled {s u v : State} (h : Pure s u) (h' : Settled u v) : Settled s v :=
  ⟨h'.cfg.trans h.cfg, h'.op.imp_left (·.trans h.op), h'.port.trans h.port,
    h'.result.imp_left (·.trans h.result), h'.chip.trans h.chip, h'.env.trans h.env,
    h'.log.trans h.log⟩

/-! ## Pure parts -/

theorem setRecvBytes_pure (bs : List Byte) (s : State) : Pure s (setRecvBytes bs s) := by
  unfold setRecvBytes; split <;> exact .mk' (by simp)

theorem setHostOutput_pure {f : HostSide → HostSide} (hp : ∀ h, (f h).port = h.port)
    (hr : ∀ h, (f h).result = h.result) (s : State) : Pure s (setHostOutput f s) :=
  .mk' (by simp only [setHostOutput]; split <;> simp [hp, hr])

theorem exStore_pure (d : List Byte) (s : State) : Pure s (exStore d s) :=
  (setRecvBytes_pure (receivedInto s.arg.rxAlign (recvBytes s) d) s).trans
    (setHostOutput_pure (f := fun h => { h with recvLen := s.reg.n }) (fun _ => rfl) (fun _ => rfl) _)

@[simp] theorem exStore_port (d : List Byte) (s : State) :
    (exStore d s).host.port = s.host.port :=
  (exStore_pure d s).port

theorem exNoRecv_pure (s : State) : Pure s (exNoRecv s) := .mk' (by simp [exNoRecv])

theorem startLevel_pure (s : State) : Pure s (startLevel s).state := by
  unfold startLevel
  simp only
  split <;> exact .mk' (by simp [startSelecting, callCrc, enterCrc, loadKnown, sendProbe, enterExecute,
    latchProbe, latchTransceive])

theorem enterSelect_pure (s : State) : Pure s (enterSelect s).state := by
  unfold enterSelect
  split
  · exact (Pure.mk' (by simp)).trans (startLevel_pure _)
  · exact .mk' (by simp [raise])

theorem sendProbe_pure (s : State) : Pure s (sendProbe s).state :=
  .mk' (by simp [sendProbe, enterExecute, latchProbe, latchTransceive])

theorem selectFails_pure (e : ExecError) (s : State) : Pure s (selectFails e s).state :=
  .mk' (by simp [selectFails, raise])

theorem selectAnswered_pure (s : State) : Pure s (selectAnswered s).state := by
  unfold selectAnswered
  simp only
  split
  · split
    · exact (Pure.mk' (by simp)).trans (startLevel_pure _)
    · exact .mk' (by simp [selectFails, raise])
  · exact .mk' (by simp [finaliseUid, ret])

theorem enterMifare_pure (payload : List Byte) (ign : Bool) (s : State) :
    Pure s (enterMifare payload ign s).state :=
  .mk' (by simp [enterMifare, startFrame, callCrc, enterCrc, latchTransceive])

theorem exClassify_pure (s : State) : Pure s (exClassify s).state := by
  unfold exClassify
  repeat' split
  all_goals exact .mk' (by simp [raise, callCrc, enterCrc, exReturn, ret])

/-- A return rule computes. -/
theorem resume_pure (l : Ret) (r : Res) (s : State) : Pure s (resume l r s).state := by
  cases l
  case r94 => cases r <;> exact .mk' (by simp [resume, frameCrcDone, raise, enterExecute])
  case r151 => cases r <;> exact .mk' (by simp [resume, appendCrcDone, raise, ret])
  case r152 =>
    cases r with
    | err e => exact .mk' (by simp [resume, verifyCrcDone, raise])
    | ok v =>
      simp only [resume, verifyCrcDone]
      split <;> exact .mk' (by simp [raise, ret])
  case r175 =>
    cases r with
    | err e => exact .mk' (by simp [resume, exCrcDone, raise])
    | ok v =>
      simp only [resume, exCrcDone]
      split <;> exact .mk' (by simp [raise, ret, exReturn])
  case r193 =>
    have hw : Pure s (reqaDone (.err .timeout) s).state :=
      .mk' (by simp [reqaDone, enterExecute, latchShort, latchTransceive])
    have hs : Pure s (proceedToSelect s).state := (Pure.mk' (by simp)).trans (enterSelect_pure _)
    cases r with
    | ok v => exact hs
    | err e => cases e <;> first | exact hs | exact hw
  case r194 =>
    have hs : Pure s (proceedToSelect s).state := (Pure.mk' (by simp)).trans (enterSelect_pure _)
    cases r with
    | ok v => exact hs
    | err e => cases e <;> first | exact hs | exact Pure.refl s
  case r195 => exact Pure.refl s
  case r206 =>
    have hf : ∀ e, Pure s (selectFails e s).state := fun e => selectFails_pure e s
    cases r with
    | ok v => exact .mk' (by simp [resume, probeDone, startSelecting, callCrc, enterCrc])
    | err e =>
      cases e
      case collision => exact .mk' (by simp [resume, probeDone])
      all_goals exact hf _
  case r213 =>
    cases r with
    | err e => exact selectFails_pure e s
    | ok v =>
      exact .mk' (by simp [resume, selectCrcDone, enterExecute, latchSelect, latchTransceive])
  case r214 =>
    cases r with
    | err e => exact Pure.refl s
    | ok v =>
      exact .mk' (by simp [resume, selectFrameCrcDone, enterExecute, latchSelect, latchTransceive])
  case r215 =>
    cases r with
    | err e => exact selectFails_pure e s
    | ok v => exact selectAnswered_pure s
  case r223 =>
    cases r with
    | err e => exact Pure.refl s
    | ok v => exact .mk' (by simp [resume, haltCrcDone, enterExecute, latchTransceive])
  case r224 =>
    cases r with
    | ok v => exact Pure.refl s
    | err e => cases e <;> exact Pure.refl s
  case r248 =>
    cases r with
    | err e => exact Pure.refl s
    | ok v => exact enterMifare_pure _ _ s
  case r250 =>
    cases r with
    | err e => exact Pure.refl s
    | ok v => exact .mk' (by simp [resume, mifareCrcDone, enterExecute])
  case r251 =>
    cases r with
    | ok v =>
      simp only [resume, mifareDone, ackOrNak]
      repeat' split
      all_goals exact Pure.refl s
    | err e =>
      cases e
      case timeout =>
        simp only [resume, mifareDone]
        split <;> exact Pure.refl s
      all_goals exact Pure.refl s

theorem deliver_settled (r : Res) (s : State) : Settled s (deliver r s) :=
  ⟨rfl, .inr (deliver_atRest r s), rfl, .inr (deliver_atRest r s), rfl, rfl, rfl⟩

theorem unwind_settled (l : List Ret) (r : Res) (s : State) : Settled s (unwind l r s) := by
  induction l generalizing r s with
  | nil => exact deliver_settled r s
  | cons l rest ih =>
    have h := resume_pure l r { s with stack := rest }
    have h' : Pure s (resume l r { s with stack := rest }).state := (Pure.mk' (by simp)).trans h
    cases hf : resume l r { s with stack := rest } with
    | running u => rw [unwind_running hf]; rw [hf] at h'; exact h'.settled
    | done r' u => rw [unwind_done hf]; rw [hf] at h'; exact h'.trans_settled (ih r' u)

theorem settle_settled {s : State} {f : Flow} (h : Pure s f.state) : Settled s (settle f) := by
  cases f with
  | running u => exact h.settled
  | done r u => exact h.trans_settled (unwind_settled u.stack r u)

theorem land_settled {s : State} {f : Flow} (h : Pure s f.state) : Settled s (land f) := by
  cases f with
  | running u => exact h.settled
  | done r u => exact h.trans_settled (deliver_settled r u)

/-! ## One step -/

/-- A transaction and the pure computation behind it. -/
theorem onTx_pure {t : Tx} {k : List Byte → State → Flow} {s : State}
    (h : ∀ bs, Pure (s.afterTx t) (k bs (s.afterTx t)).state) :
    Pure (s.afterTx t) (onTx t k s).state :=
  onTx_ind (P := fun f => Pure (s.afterTx t) f.state) (fun bs _ _ => h bs) (fun _ => Pure.refl _)

/-- One step of the operation in progress: the state after its one transaction or time sample. -/
inductive Middle (s : State) : State → Prop
  | tx (t : Tx) : Middle s (s.afterTx t)
  | now : Middle s s.afterNow

theorem stepLabel_middle {s : State} (h : s.seq ≠ .idle) :
    ∃ m, Middle s m ∧ Pure m (stepLabel s).state := by
  have tx : ∀ t k, stepLabel s = onTx t k s →
      (∀ bs, Pure (s.afterTx t) (k bs (s.afterTx t)).state) →
      ∃ m, Middle s m ∧ Pure m (stepLabel s).state :=
    fun t k e hp => ⟨_, .tx t, e ▸ onTx_pure hp⟩
  have time : Pure s.afterNow (stepLabel s).state → ∃ m, Middle s m ∧ Pure m (stepLabel s).state :=
    fun hp => ⟨_, .now, hp⟩
  cases hs : s.seq
  case idle => exact absurd hs h
  case r147t | r168t | r127t =>
    refine time ?_
    simp only [stepLabel, hs]
    exact .mk' (by simp [crcPollEnter, exPollEnter, pollEnter])
  case r147n | r168n | r127n =>
    refine time ?_
    simp only [stepLabel, hs, crcPollTime, exPollTime, pollTime]
    split <;> exact .mk' (by simp [raise])
  case r141 | r142 | r143 | r145 | r161 | r162 | r163 | r165 | r166 | r167w =>
    refine tx _ _ (by
      simp only [stepLabel, hs, crcIdle, crcClear, crcFlush, crcStart, exIdle, exClear, exFlush, exFraming, exCommand,
        exStartWrite, writeThen]
      rfl) fun bs => ?_
    exact .mk' (by simp)
  case r144 | r164 | r149 | r124w | r125w | r124r | r125r | r146 | r148h | r148l | r167r =>
    refine tx _ _ (by
      simp only [stepLabel, hs, crcLoad, exLoad, crcFinish, setbitsWrite, clrbitsWrite, rmwRead, crcMode, crcReadHigh,
        crcReadLow, exStartRead, readThen]
      rfl) fun bs => ?_
    exact .mk' (by simp [ret])
  case r171 =>
    refine tx _ _ (by
      simp only [stepLabel, hs, exData]
      rfl) fun bs => ?_
    exact .mk' (by simp)
  case r147r | r168r | r127r =>
    refine tx _ _ (by
      simp only [stepLabel, hs, crcPollRead, exPollRead, pollOwnRead, pollRead, readThen]
      rfl) fun bs => ?_
    split
    · exact .mk' (by simp [ret])
    · split <;> exact .mk' (by simp [raise])
  case r169 =>
    refine tx _ _ (by
      simp only [stepLabel, hs, exError, readThen]
      rfl) fun bs => ?_
    split
    · exact .mk' (by simp [raise])
    · split
      · exact .mk' (by simp)
      · exact ((Pure.mk' (by simp)).trans (exNoRecv_pure _)).trans (exClassify_pure _)
  case r170 =>
    refine tx _ _ (by
      simp only [stepLabel, hs, exLength, readThen]
      rfl) fun bs => ?_
    split
    · exact .mk' (by simp [raise])
    · split
      · exact .mk' (by simp)
      · exact .mk' (by simp)
  case r172 =>
    refine tx _ _ (by
      simp only [stepLabel, hs, exControl, readThen]
      rfl) fun bs => ?_
    refine Pure.trans ?_ (exClassify_pure _)
    refine Pure.trans (.mk' (by simp)) (setHostOutput_pure ?_ ?_ _) <;> exact fun _ => rfl
  case r209 =>
    refine tx _ _ (by
      simp only [stepLabel, hs, collisionRead, readThen]
      rfl) fun bs => ?_
    split
    · exact .mk' (by simp [extendPrefix, selectFails, raise])
    · exact .mk' (by simp [extendPrefix, sendProbe, enterExecute, latchProbe, latchTransceive])

/-- Everything one step of the operation in progress can do. -/
theorem step_busy_cases {s t : State} (h : s.seq ≠ .idle) (ht : step s = .next t) :
    ∃ m, Middle s m ∧ Settled m t := by
  obtain ⟨m, hm, hp⟩ := stepLabel_middle h
  rw [step_busy h] at ht
  cases ht
  exact ⟨m, hm, settle_settled hp⟩

/-! ## One instruction issued -/

/-- An instruction is accepted by `accept`. -/
theorem exec_accept (i : Instr) :
    ∃ op ports start, (∀ s, exec i s = accept op ports start s) ∧
      ∀ s, ∃ m, (m = s ∨ Middle s m) ∧ Pure m (start s).state := by
  have pure : ∀ (op : Byte) (ports : Args) (start : State → Flow),
      (∀ s, Pure s (start s).state) →
      ∃ op' ports' start', (∀ s, accept op ports start s = accept op' ports' start' s) ∧
        ∀ s, ∃ m, (m = s ∨ Middle s m) ∧ Pure m (start' s).state :=
    fun op ports start hp => ⟨op, ports, start, fun _ => rfl, fun s => ⟨s, .inl rfl, hp s⟩⟩
  have one : ∀ (t : Tx) (k : List Byte → State → Flow) (s : State),
      (∀ bs, Pure (s.afterTx t) (k bs (s.afterTx t)).state) →
      ∃ m, (m = s ∨ Middle s m) ∧ Pure m (onTx t k s).state :=
    fun t k s h => ⟨_, .inr (.tx t), onTx_pure h⟩
  cases i <;> simp only [exec, execCalculateCrc, execExecute, execTransceive, execActivate,
    execSelect, execHalt, execAuthenticateA, execAuthenticateB, execStopSession, execReadBlock,
    execWriteBlock, execWritePage, execMifareTransceive, execRd, execRdb, execWr, execWrb,
    execSetbits, execClrbits, execPoll, execAppendCrc, execVerifyCrc, execCmdIdle, execCmdCalcCrc,
    execCmdTransceive, execCmdMfAuthent, execReqa, execWupa, execAnticollCl1, execAnticollCl2,
    execAnticollCl3, execSelectCl1, execSelectCl2, execSelectCl3, execHlta, execMfAuthKeyA,
    execMfAuthKeyB, execMfRead, execMfWrite, execMfWriteUl, issueCommand]
  case rd a =>
    exact ⟨_, _, _, fun _ => rfl, fun s => one _ _ s fun bs => .mk' (by simp [ret])⟩
  case wr a v =>
    exact ⟨_, _, _, fun _ => rfl, fun s => one _ _ s fun bs => .mk' (by simp [ret])⟩
  case rdb a n =>
    refine ⟨_, _, _, fun _ => rfl, fun s => ?_⟩
    split
    · exact ⟨s, .inl rfl, .mk' (by simp [ret])⟩
    · exact one _ _ s fun bs => .mk' (by simp [ret])
  case wrb a n =>
    refine ⟨_, _, _, fun _ => rfl, fun s => ?_⟩
    split
    · exact ⟨s, .inl rfl, .mk' (by simp [ret])⟩
    · exact one _ _ s fun bs => .mk' (by simp [ret])
  case cmdIdle | cmdCalcCrc | cmdTransceive | cmdMfAuthent =>
    exact ⟨_, _, _, fun _ => rfl, fun s => one _ _ s fun bs => .mk' (by simp [ret])⟩
  case select h sp => exact pure _ _ _ enterSelect_pure
  case activate h sp =>
    refine pure _ _ _ fun s => ?_
    split <;> exact .mk' (by simp [raise, sendReqa, enterExecute, latchShort, latchTransceive])
  case readBlock a out =>
    refine pure _ _ _ fun s => ?_
    split <;> exact .mk' (by simp [raise, startFrame, callCrc, enterCrc, latchTransceive])
  case writeBlock a data =>
    refine pure _ _ _ fun s => ?_
    split
    · exact .mk' (by simp [raise])
    · exact (Pure.mk' (by simp)).trans (enterMifare_pure _ _ _)
  case writePage a data =>
    refine pure _ _ _ fun s => ?_
    split
    · exact .mk' (by simp [raise])
    · exact enterMifare_pure _ _ _
  case mifareTransceive p ign => exact pure _ _ _ (enterMifare_pure _ _)
  case mfWriteUl p d => exact pure _ _ _ (enterMifare_pure _ _)
  case mfWrite p d =>
    exact pure _ _ _ fun s => (Pure.mk' (by simp)).trans (enterMifare_pure _ _ _)
  case authenticateA | authenticateB =>
    refine pure _ _ _ fun s => ?_
    unfold startAuthenticate
    split <;> exact .mk' (by simp [raise, enterExecute])
  all_goals
    exact pure _ _ _ fun s => .mk' (by
      simp [enterCrc, callCrc, enterExecute, latchTransceive, lendBuffer, latchShort, probeFrame,
        latchProbe, selectFrame, startFrame, runAuthFrame])

/-- Everything an instruction can do when it is issued: only at `IDLE`; the operation latched; at most
one transaction; pure computation. -/
theorem exec_next_cases {i : Instr} {s t : State} (h : exec i s = .next t) :
    s.seq = .idle ∧ ∃ op ports m,
      (m = s.latched op ports ∨ Middle (s.latched op ports) m) ∧ Settled m t := by
  obtain ⟨op, ports, start, he, hp⟩ := exec_accept i
  rw [he] at h
  obtain ⟨hs, rfl⟩ := accept_next h
  obtain ⟨m, hm, hm'⟩ := hp (s.latched op ports)
  exact ⟨hs, op, ports, m, hm, land_settled hm'⟩

end Sys2Proof.Machine
end

