-- ==== Sys2Proof/Laws/Granularity.lean ====
section
/-! SUPPORT. The step as 92 D45 words it, beside the machine's own, which is that of 20_memory R62 (log
3): the computation between two transactions is made at the beginning of the second one's step. Proved
here: such a machine makes the same transactions, samples and results in the same order. -/

namespace Sys2Proof.Machine

/-- The transaction or time sample of the step alone: the ports as it leaves them, no register written. -/
def transact (s : State) : State :=
  { s with chip := (advance s).chip, env := (advance s).env, log := (advance s).log }

/-- It is the one event of the step (20_memory R62). -/
theorem transact_middle {s : State} (h : s.seq ≠ .idle) : Middle s (transact s) := by
  obtain ⟨m, hm, hs⟩ := step_busy_cases h (step_busy h)
  have e : transact s = m := by
    rw [transact, hs.chip, hs.env, hs.log]
    cases hm <;> rfl
  exact e ▸ hm

/-- Where the machine of D45 stands: nothing left to compute, or the transaction of the step at `s` is
made and the computation behind it, which leads to another step, is not. -/
inductive Delayed where
  | computed (s : State)
  | pending (s : State)
  deriving DecidableEq, Repr

/-- What can be seen of it. -/
def Delayed.shown : Delayed → State
  | .computed s => s
  | .pending s => transact s

/-- With the computation that is left made. -/
def Delayed.settled : Delayed → State
  | .computed s => s
  | .pending s => advance s

/-- The transaction of the step at `s`. Behind the last one of an operation there is no following step:
the operation ends at this one (60_exceptions R280). -/
def Delayed.made (s : State) : Delayed :=
  if (advance s).seq = .idle then .computed (advance s) else .pending s

/-- A step: the computation that is left, then a transaction or sample; or the command port, at
`IDLE`. -/
def Delayed.step (d : Delayed) : Host.Outcome Delayed Fault Refusal :=
  if d.settled.seq = .idle then
    match Machine.step d.settled with
    | .next t => .next (.computed t)
    | .fault f => .fault f
    | .refused r => .refused r
  else .next (made d.settled)

theorem Delayed.made_settled (s : State) : (made s).settled = advance s := by
  unfold made; split <;> rfl

/-- Step by step, the machine of R62 is that of D45 with its computation made. -/
theorem Delayed.step_settled (d : Delayed) :
    Machine.step d.settled =
      match d.step with
      | .next d' => .next d'.settled
      | .fault f => .fault f
      | .refused r => .refused r := by
  by_cases h : d.settled.seq = .idle
  · simp only [Delayed.step, h, if_true]
    cases Machine.step d.settled <;> rfl
  · simp only [Delayed.step, h, if_false, made_settled]
    exact step_busy h

/-- The ports are the same at every step: the same transactions and samples with the same answers, the
same record of the register space. -/
theorem Delayed.ports_agree (d : Delayed) :
    d.shown.log = d.settled.log ∧ d.shown.env = d.settled.env ∧ d.shown.chip = d.settled.chip := by
  cases d <;> exact ⟨rfl, rfl, rfl⟩

/-- And so is the result port: a result appears in the step that makes the operation's last
transaction, and not before. -/
theorem Delayed.result_agrees {d d' : Delayed} (h : d.step = .next d') :
    d'.shown.host.result = d'.settled.host.result := by
  unfold Delayed.step at h
  split at h
  · cases hs : Machine.step d.settled <;> rw [hs] at h <;> cases h
    rfl
  · rename_i hb
    cases h
    unfold made
    split
    · rfl
    · rename_i ha
      obtain ⟨m, hm, hs⟩ := step_busy_cases hb (step_busy hb)
      have e : m.host.result = d.settled.host.result := by cases hm <;> rfl
      rcases hs.result with hr | hr
      · exact (hr.trans e).symm
      · exact absurd hr.seq ha

end Sys2Proof.Machine
end

