-- ==== Sys2Proof/Laws/PerInstr.lean ====
section
/-! SUPPORT. A law of every instruction as syntax: its encoding is an offer of the format of its row
(30_encoding R80, R112). -/

namespace Sys2Proof.Laws

/-- The encoding of the instruction is laid on the command port in the format of its row. -/
def EncodedFormat.Statement (i : Instr) : Prop :=
  ∀ c : Config, (encode c i).format = i.format

theorem EncodedFormat.calculateCrc (buffer : List Byte) :
    EncodedFormat.Statement (.calculateCrc buffer) := fun _ => rfl
theorem EncodedFormat.execute (cmd waitFlags : Byte) (send : List Byte)
    (recv : Option (List Byte)) (txLastBits rxAlign : Nat) (checkCrc : Bool) :
    EncodedFormat.Statement (.execute cmd waitFlags send recv txLastBits rxAlign checkCrc) := fun _ => rfl
theorem EncodedFormat.transceive (send : List Byte) (recv : Option (List Byte))
    (txLastBits rxAlign : Nat) (checkCrc : Bool) :
    EncodedFormat.Statement (.transceive send recv txLastBits rxAlign checkCrc) := fun _ => rfl
theorem EncodedFormat.activate (uidHint : Option Uid) (specific : Bool) :
    EncodedFormat.Statement (.activate uidHint specific) := fun _ => rfl
theorem EncodedFormat.select (uidHint : Option Uid) (specific : Bool) :
    EncodedFormat.Statement (.select uidHint specific) := fun _ => rfl
theorem EncodedFormat.halt : EncodedFormat.Statement .halt := fun _ => rfl
theorem EncodedFormat.authenticateA (uid : Uid) (key : List Byte) (block : Byte) :
    EncodedFormat.Statement (.authenticateA uid key block) := fun _ => rfl
theorem EncodedFormat.authenticateB (uid : Uid) (key : List Byte) (block : Byte) :
    EncodedFormat.Statement (.authenticateB uid key block) := fun _ => rfl
theorem EncodedFormat.stopSession : EncodedFormat.Statement .stopSession := fun _ => rfl
theorem EncodedFormat.readBlock (addr : Byte) (out : List Byte) :
    EncodedFormat.Statement (.readBlock addr out) := fun _ => rfl
theorem EncodedFormat.writeBlock (addr : Byte) (data : List Byte) :
    EncodedFormat.Statement (.writeBlock addr data) := fun _ => rfl
theorem EncodedFormat.writePage (page : Byte) (data : List Byte) :
    EncodedFormat.Statement (.writePage page data) := fun _ => rfl
theorem EncodedFormat.mifareTransceive (payload : List Byte) (ignoreTimeout : Bool) :
    EncodedFormat.Statement (.mifareTransceive payload ignoreTimeout) := fun _ => rfl
theorem EncodedFormat.rd (addr : Byte) :
    EncodedFormat.Statement (.rd addr) := fun _ => rfl
theorem EncodedFormat.rdb (addr : Byte) (n : Nat) :
    EncodedFormat.Statement (.rdb addr n) := fun _ => rfl
theorem EncodedFormat.wr (addr : Byte) (v : Byte) :
    EncodedFormat.Statement (.wr addr v) := fun _ => rfl
theorem EncodedFormat.wrb (addr : Byte) (bytes : List Byte) :
    EncodedFormat.Statement (.wrb addr bytes) := fun _ => rfl
theorem EncodedFormat.setbits (addr : Byte) (mask : Byte) :
    EncodedFormat.Statement (.setbits addr mask) := fun _ => rfl
theorem EncodedFormat.clrbits (addr : Byte) (mask : Byte) :
    EncodedFormat.Statement (.clrbits addr mask) := fun _ => rfl
theorem EncodedFormat.poll (addr : Byte) (doneMask failMask : Byte) (deadline : Nat) :
    EncodedFormat.Statement (.poll addr doneMask failMask deadline) := fun _ => rfl
theorem EncodedFormat.appendCrc (frame : List Byte) :
    EncodedFormat.Statement (.appendCrc frame) := fun _ => rfl
theorem EncodedFormat.verifyCrc (r : List Byte) :
    EncodedFormat.Statement (.verifyCrc r) := fun _ => rfl
theorem EncodedFormat.cmdIdle : EncodedFormat.Statement .cmdIdle := fun _ => rfl
theorem EncodedFormat.cmdCalcCrc : EncodedFormat.Statement .cmdCalcCrc := fun _ => rfl
theorem EncodedFormat.cmdTransceive : EncodedFormat.Statement .cmdTransceive := fun _ => rfl
theorem EncodedFormat.cmdMfAuthent : EncodedFormat.Statement .cmdMfAuthent := fun _ => rfl
theorem EncodedFormat.reqa : EncodedFormat.Statement .reqa := fun _ => rfl
theorem EncodedFormat.wupa : EncodedFormat.Statement .wupa := fun _ => rfl
theorem EncodedFormat.anticollCl1 (kb : Nat) (known : List Byte) :
    EncodedFormat.Statement (.anticollCl1 kb known) := fun _ => rfl
theorem EncodedFormat.anticollCl2 (kb : Nat) (known : List Byte) :
    EncodedFormat.Statement (.anticollCl2 kb known) := fun _ => rfl
theorem EncodedFormat.anticollCl3 (kb : Nat) (known : List Byte) :
    EncodedFormat.Statement (.anticollCl3 kb known) := fun _ => rfl
theorem EncodedFormat.selectCl1 (b0 b1 b2 b3 bcc : Byte) :
    EncodedFormat.Statement (.selectCl1 b0 b1 b2 b3 bcc) := fun _ => rfl
theorem EncodedFormat.selectCl2 (b0 b1 b2 b3 bcc : Byte) :
    EncodedFormat.Statement (.selectCl2 b0 b1 b2 b3 bcc) := fun _ => rfl
theorem EncodedFormat.selectCl3 (b0 b1 b2 b3 bcc : Byte) :
    EncodedFormat.Statement (.selectCl3 b0 b1 b2 b3 bcc) := fun _ => rfl
theorem EncodedFormat.hlta : EncodedFormat.Statement .hlta := fun _ => rfl
theorem EncodedFormat.mfAuthKeyA (block : Byte) (key uidTail : List Byte) :
    EncodedFormat.Statement (.mfAuthKeyA block key uidTail) := fun _ => rfl
theorem EncodedFormat.mfAuthKeyB (block : Byte) (key uidTail : List Byte) :
    EncodedFormat.Statement (.mfAuthKeyB block key uidTail) := fun _ => rfl
theorem EncodedFormat.mfRead (addr : Byte) :
    EncodedFormat.Statement (.mfRead addr) := fun _ => rfl
theorem EncodedFormat.mfWrite (addr : Byte) (data : List Byte) :
    EncodedFormat.Statement (.mfWrite addr data) := fun _ => rfl
theorem EncodedFormat.mfWriteUl (page : Byte) (data : List Byte) :
    EncodedFormat.Statement (.mfWriteUl page data) := fun _ => rfl

end Sys2Proof.Laws
end

