-- ==== Sys2Proof/Tests/Slice0.lean ====
section
/-! SUPPORT. Tests: refusals of well-formedness, decoding of words written out from the spec's
encodings, single steps against the vectors of 95_test_vectors.md (V-…), and for every obligation with
hypotheses a concrete instance that meets them. -/

open Sys2Proof Sys2Proof.Machine

namespace Sys2Proof.Tests

/-! ## Well-formedness refuses (one ill-formed term for each check) -/

theorem test_wf_known_bits :
    (Instr.anticollCl1 33 [0, 0, 0, 0, 0]).wf = false ∧ (Instr.anticollCl2 9 [0]).wf = false ∧
      (Instr.anticollCl3 8 [0, 0]).wf = false := by decide
theorem test_wf_auth_frame :
    (Instr.mfAuthKeyA 0 [0, 0, 0, 0, 0] [0, 0, 0, 0]).wf = false ∧
      (Instr.mfAuthKeyB 0 [0, 0, 0, 0, 0, 0] [0, 0, 0]).wf = false := by decide
theorem test_wf_write_frames :
    (Instr.mfWrite 0 [0]).wf = false ∧ (Instr.mfWriteUl 0 [0, 0, 0]).wf = false := by decide
theorem test_config_lawful : Config.default.Lawful := by decide
theorem test_config_commands_clash :
    ¬ ({ cmdIdle := 0x0C#8 } : Config).CommandsDistinct := by decide
theorem test_config_frames_clash : ¬ ({ selCl1 := 0x26#8 } : Config).FramesDistinct := by decide
theorem test_config_fields_too_wide :
    ¬ ({ collPosMask := 0x3F#8 } : Config).FieldsFit ∧ ¬ ({ maxProbes := 0 } : Config).FieldsFit := by
  decide
theorem test_config_masks_overlap :
    ¬ ({ errCrc := 0x02#8 } : Config).MasksLawful ∧ ¬ ({ irqRx := 0x30#8 } : Config).MasksLawful ∧
      ¬ ({ bfStartSend := 0x40#8 } : Config).MasksLawful := by decide

/-! ## Decoding: a word for every row, from 30_encoding R81, R84, R86, R92 to R102 -/

/-- The decoder at the default configuration. -/
abbrev dec (o : Offer) : Decoded := decode Config.default o

/-- Argument ports with something on every one, to see which ones an operation reads. -/
def fullPorts : Args :=
  { buffer := [1], cmd := 2, waitFlags := 3, send := [4], recv := some [5], txLastBits := 6,
    rxAlign := 7, checkCrc := true, uidHint := some { size := 8 }, specific := true,
    uid := { size := 9 }, key := [10], block := 11, addr := 12, out := [13], page := 14, data := [15],
    payload := [16], ignoreTimeout := true }

theorem test_decode_hostop_executor :
    dec (.hostop 0b00000001#8 fullPorts) = .instr (.calculateCrc [1]) ∧
      dec (.hostop 0b00000010#8 fullPorts) = .instr (.execute 2 3 [4] (some [5]) 6 7 true) ∧
      dec (.hostop 0b00000011#8 fullPorts) = .instr (.transceive [4] (some [5]) 6 7 true) := by decide
theorem test_decode_hostop_select :
    dec (.hostop 0b00010000#8 fullPorts) = .instr (.activate (some { size := 8 }) true) ∧
      dec (.hostop 0b00010001#8 fullPorts) = .instr (.select (some { size := 8 }) true) ∧
      dec (.hostop 0b00010010#8 fullPorts) = .instr .halt := by decide
theorem test_decode_hostop_session :
    dec (.hostop 0b00100000#8 fullPorts) = .instr (.authenticateA { size := 9 } [10] 11) ∧
      dec (.hostop 0b00100001#8 fullPorts) = .instr (.authenticateB { size := 9 } [10] 11) ∧
      dec (.hostop 0b00100010#8 fullPorts) = .instr .stopSession := by decide
theorem test_decode_hostop_mifare :
    dec (.hostop 0b00110000#8 fullPorts) = .instr (.readBlock 12 [13]) ∧
      dec (.hostop 0b00110001#8 fullPorts) = .instr (.writeBlock 12 [15]) ∧
      dec (.hostop 0b00110010#8 fullPorts) = .instr (.writePage 14 [15]) ∧
      dec (.hostop 0b00110011#8 fullPorts) = .instr (.mifareTransceive [16] true) := by decide
theorem test_decode_hostop_other :
    dec (.hostop 0b01000000#8 fullPorts) = .reject (.hostCode 0x40#8) ∧
      dec (.hostop 0b00000000#8 fullPorts) = .reject (.hostCode 0x00#8) := by decide
theorem test_decode_regtx :
    dec (.regtx (.rd 0x11#8)) = .instr (.rd 0x11#8) ∧
      dec (.regtx (.rdb 0x09#8 2)) = .instr (.rdb 0x09#8 2) ∧
      dec (.regtx (.wr 0x01#8 0x00#8)) = .instr (.wr 0x01#8 0x00#8) ∧
      dec (.regtx (.wrb 0x09#8 [0x50#8, 0x00#8])) = .instr (.wrb 0x09#8 [0x50#8, 0x00#8]) := by decide
theorem test_decode_pseudo :
    dec (.pseudo (.setbits 0x0D#8 0x80#8)) = .instr (.setbits 0x0D#8 0x80#8) ∧
      dec (.pseudo (.clrbits 0x08#8 0x08#8)) = .instr (.clrbits 0x08#8 0x08#8) ∧
      dec (.pseudo (.poll 0x04#8 0x30#8 0x01#8 50)) = .instr (.poll 0x04#8 0x30#8 0x01#8 50) ∧
      dec (.pseudo (.appendCrc [0x50#8])) = .instr (.appendCrc [0x50#8]) ∧
      dec (.pseudo (.verifyCrc [0x63#8, 0x63#8])) = .instr (.verifyCrc [0x63#8, 0x63#8]) := by decide
theorem test_decode_pcdcmd :
    dec (.pcdcmd 0b00000000#8) = .instr .cmdIdle ∧ dec (.pcdcmd 0b00000011#8) = .instr .cmdCalcCrc ∧
      dec (.pcdcmd 0b00001100#8) = .instr .cmdTransceive ∧
      dec (.pcdcmd 0b00001110#8) = .instr .cmdMfAuthent ∧
      dec (.pcdcmd 0b00001111#8) = .reject (.chipCommand 0x0F#8) := by decide
theorem test_decode_short_frames :
    dec (.frame [0b00100110#8] 7) = .instr .reqa ∧ dec (.frame [0b01010010#8] 7) = .instr .wupa ∧
      dec (.frame [0b00100110#8] 0) = .reject (.frameShape [0x26#8] 0) := by decide
theorem test_decode_anticollision :
    dec (.frame [0b10010011#8, 0b00100000#8] 0) = .instr (.anticollCl1 0 []) ∧
      dec (.frame [0b10010101#8, 0b00110011#8, 0xC3#8, 0x05#8] 3) =
        .instr (.anticollCl2 11 [0xC3#8, 0x05#8]) ∧
      dec (.frame [0b10010111#8, 0b01100000#8, 0x07#8, 0x08#8, 0x09#8, 0x0A#8] 0) =
        .instr (.anticollCl3 32 [0x07#8, 0x08#8, 0x09#8, 0x0A#8]) ∧
      dec (.frame [0b10010011#8, 0b00010000#8] 0) = .reject (.frameShape [0x93#8, 0x10#8] 0) := by
  decide
theorem test_decode_select :
    dec (.frame [0b10010011#8, 0b01110000#8, 0xDE#8, 0xAD#8, 0xBE#8, 0xEF#8, 0x22#8] 0) =
        .instr (.selectCl1 0xDE#8 0xAD#8 0xBE#8 0xEF#8 0x22#8) ∧
      dec (.frame [0b10010101#8, 0b01110000#8, 0xC3#8, 0xD4#8, 0xE5#8, 0xF6#8, 0x04#8] 0) =
        .instr (.selectCl2 0xC3#8 0xD4#8 0xE5#8 0xF6#8 0x04#8) ∧
      dec (.frame [0b10010111#8, 0b01110000#8, 0x07#8, 0x08#8, 0x09#8, 0x0A#8, 0x0C#8] 0) =
        .instr (.selectCl3 0x07#8 0x08#8 0x09#8 0x0A#8 0x0C#8) := by decide
theorem test_decode_halt_and_auth :
    dec (.frame [0b01010000#8, 0b00000000#8] 0) = .instr .hlta ∧
      dec (.frame [0b01100000#8, 0x04#8, 1, 2, 3, 4, 5, 6, 0xDE#8, 0xAD#8, 0xBE#8, 0xEF#8] 0) =
        .instr (.mfAuthKeyA 0x04#8 [1, 2, 3, 4, 5, 6] [0xDE#8, 0xAD#8, 0xBE#8, 0xEF#8]) ∧
      dec (.frame [0b01100001#8, 0x07#8, 1, 2, 3, 4, 5, 6, 0xC3#8, 0xD4#8, 0xE5#8, 0xF6#8] 0) =
        .instr (.mfAuthKeyB 0x07#8 [1, 2, 3, 4, 5, 6] [0xC3#8, 0xD4#8, 0xE5#8, 0xF6#8]) := by decide
theorem test_decode_mifare_frames :
    dec (.frame [0b00110000#8, 0x04#8] 0) = .instr (.mfRead 0x04#8) ∧
      dec (.frame (0b10100000#8 :: 0x04#8 :: List.replicate 16 0x55#8) 0) =
        .instr (.mfWrite 0x04#8 (List.replicate 16 0x55#8)) ∧
      dec (.frame [0b10100010#8, 0x04#8, 1, 2, 3, 4] 0) = .instr (.mfWriteUl 0x04#8 [1, 2, 3, 4]) ∧
      dec (.frame [0b11111111#8] 0) = .reject (.tagCommand [0xFF#8]) ∧
      dec (.frame [] 0) = .reject (.tagCommand []) := by decide
theorem test_table_words_shared_between_formats :
    decodeTableWord 8 0x03 = some (.transceive [] none 0 0 false) ∧
      decodeTableWord 8 0x30 = some (.readBlock 0 []) ∧ decodeTableWord 8 0x13 = none := by decide

/-! ## Functions of the rules against the vectors -/

theorem test_V_BF :
    bitFraming Config.default 4 4 = 0x44#8 ∧ bitFraming Config.default 7 7 = 0x77#8 ∧
      bitFraming Config.default 7 7 ||| Config.default.bfStartSend = 0xF7#8 := by decide
theorem test_V_NVB :
    nvbOf 1 = 0x21#8 ∧ nvbOf 7 = 0x27#8 ∧ probeLen 11 = 4 ∧ probeWindow 11 = 3 ∧ probeLen 31 = 6 ∧
      probeWindow 31 = 5 ∧ probeLen 32 = 6 ∧ probeWindow 32 = 6 := by decide
theorem test_counts_above_seven_are_masked :
    bitFraming Config.default 8 0 = 0x00#8 ∧ bitFraming Config.default 9 12 = 0x14#8 ∧
      bitFraming Config.default 0 0x80 = 0x00#8 := by decide
theorem test_V_CP :
    [0x10#8, 0x0B#8, 0x00#8, 0x20#8, 0x3F#8].map (collisionPosition Config.default) =
      [16, 11, 32, 32, 31] := by decide
theorem test_V_CB :
    setCollisionBit 16 [0, 0, 0, 0, 0, 0] = [0, 0, 0, 0x80#8, 0, 0] ∧
      setCollisionBit 32 [0, 0, 0, 0, 0, 0] = [0, 0, 0, 0, 0, 0x80#8] ∧
      setCollisionBit 9 [0, 0, 0, 0, 0, 0] = [0, 0, 0, 0x01#8, 0, 0] := by decide
theorem test_V_TY :
    [0x08#8, 0x04#8, 0x28#8, 0x24#8, 0x60#8, 0x40#8, 0x44#8, 0x00#8, 0x11#8, 0x88#8].map
        (piccTypeOf Config.default) =
      [.mifareClassic1K, .notCompleted, .iso14443_4, .notCompleted, .iso14443_4, .iso18092,
        .notCompleted, .mifareUltralight, .mifarePlus, .unknown] := by decide
/-- The seven-byte hint of V-KN. -/
def hint7 : Uid :=
  { size := 7, bytes := [0x04#8, 0xA1#8, 0xB2#8, 0xC3#8, 0xD4#8, 0xE5#8, 0xF6#8, 0, 0, 0] }
theorem test_V_KN :
    knownBytes hint7 0 = [0x88#8, 0x04#8, 0xA1#8, 0xB2#8] ∧ bccOf (knownBytes hint7 0) = 0x9F#8 ∧
      knownBytes hint7 1 = [0xC3#8, 0xD4#8, 0xE5#8, 0xF6#8] ∧ bccOf (knownBytes hint7 1) = 0x04#8 := by
  decide
theorem test_V_AU :
    authFrame 0x61#8 0x07#8 [0xA0#8, 0xA1#8, 0xA2#8, 0xA3#8, 0xA4#8, 0xA5#8] (uidTail hint7) =
      [0x61#8, 0x07#8, 0xA0#8, 0xA1#8, 0xA2#8, 0xA3#8, 0xA4#8, 0xA5#8, 0xC3#8, 0xD4#8, 0xE5#8,
        0xF6#8] := by decide
theorem test_V_INT : lo8 0xCD57#16 = 0x57#8 ∧ hi8 0xCD57#16 = 0xCD#8 := by decide
theorem test_V_CRC_values :
    crcA [] = 0x6363#16 ∧ crcA [0x50#8, 0x00#8] = 0xCD57#16 ∧ crcA [0x12#8, 0x34#8] = 0xCF26#16 := by
  decide
theorem test_V_EX_14_merge :
    receivedInto 3 [0x5A#8, 0, 0, 0, 0] [0xA8#8, 0x11#8, 0x22#8] = [0xAA#8, 0x11#8, 0x22#8, 0, 0] := by
  decide
theorem test_error_numbers :
    [Res.err .timeout, .err .collision, .err .invalidArgument, .err .crcMismatch, .err .nack,
      .err .transportError, .err .protocolError, .ok .nothing].map Res.code =
      [1, 2, 3, 4, 5, 6, 7, 0] := by decide

/-! ## Single steps against the vectors -/

/-- At rest, with the environment's answers and the clock laid down. -/
def resting (answers : List Answer) (ticks : List Nat := []) : State :=
  { env := { answers := answers, ticks := ticks } }

/-- In the middle of an operation. -/
def busy (seq : Seq) (answers : List Answer) (stack : List Ret := []) : State :=
  { resting answers with seq := seq, stack := stack }

/-- What a test looks at: history, result, step label. -/
def view : Host.Outcome State Fault Refusal → Option (List Event × Option Res × Seq)
  | .next t => some (t.log, t.host.result, t.seq)
  | .fault _ => none
  | .refused _ => none

theorem test_V_TP_1 :
    view (exec (.rd 0x11#8) (resting [gave 0x3D#8])) =
      some ([evR 0x11#8 0x3D#8], some (.ok (.byte 0x3D#8)), .idle) := by decide
theorem test_V_TP_2 :
    view (exec (.wr 0x01#8 0x00#8) (resting [wrote])) =
      some ([evW 0x01#8 0x00#8], some (.ok .nothing), .idle) := by decide
theorem test_V_TP_3_fifo :
    (match exec (.wrb 0x09#8 [0x50#8, 0x00#8, 0x57#8, 0xCD#8]) (resting [wrote]) with
      | .next t => t.chip.fifoLoad
      | .fault _ => []
      | .refused _ => []) = [0x50#8, 0x00#8, 0x57#8, 0xCD#8] := by decide
theorem test_V_TP_4 :
    view (exec (.wrb 0x09#8 []) (resting [.transportError])) = some ([], some (.ok .nothing), .idle) := by
  decide
theorem test_V_TP_5 :
    view (exec (.rdb 0x09#8 2) (resting [.ok [0x04#8, 0x00#8]])) =
      some ([.tx (.rdb 0x09#8 2) (some [0x04#8, 0x00#8])], some (.ok (.bytes [0x04#8, 0x00#8])),
        .idle) := by decide
theorem test_V_TP_7_write :
    view (step { busy .r124w [wrote] with
      prim := { addr := 0x0D#8, mask := 0x80#8 }, reg := { scratch := 0x07#8 } }) =
      some ([evW 0x0D#8 0x87#8], some (.ok .nothing), .idle) := by decide
theorem test_V_TP_8 :
    view (step { busy .r124r [.transportError] with prim := { addr := 0x0D#8 } }) =
      some ([.tx (.rd 0x0D#8) none], some (.err .transportError), .idle) := by decide
theorem test_V_TP_9_write :
    view (step { busy .r125w [wrote] with
      prim := { addr := 0x08#8, mask := 0x08#8 }, reg := { scratch := 0x0D#8 } }) =
      some ([evW 0x08#8 0x05#8], some (.ok .nothing), .idle) := by decide
theorem test_V_TP_11_deadline :
    view (step { busy .r127n [] with
      prim := { deadline := 50 }, reg := { t0 := 200 }, env := { now := 249, ticks := [1] } }) =
      some ([.now 250], some (.err .timeout), .idle) := by decide
theorem test_V_TP_13_done_first :
    view (step { busy .r127r [gave 0x65#8] with
      prim := { addr := 0x04#8, doneMask := 0x30#8, failMask := 0x01#8 } }) =
      some ([evR 0x04#8 0x65#8], some (.ok .nothing), .idle) := by decide
theorem test_calculate_crc_first_label :
    view (exec (.calculateCrc [0x50#8, 0x00#8]) (resting [])) = some ([], none, .r141) := by decide
theorem test_V_CRC_1_second_result :
    view (step { busy .r149 [wrote] with op := 0x01#8, reg := { crc := 0xCD57#16 } }) =
      some ([evW 0x01#8 0x00#8], some (.ok (.crc 0xCD57#16)), .idle) := by decide
theorem test_V_CRC_6 :
    view (step { busy .r149 [wrote] [.r151] with
      reg := { crc := 0xCD57#16, txb := [0x50#8, 0x00#8] } }) =
      some ([evW 0x01#8 0x00#8], some (.ok (.bytes [0x50#8, 0x00#8, 0x57#8, 0xCD#8])), .idle) := by decide
theorem test_V_CRC_7 :
    view (step { busy .r149 [wrote] [.r152] with
      reg := { crc := 0xDDB6#16 }, prim := { verify := [0x08#8, 0xB6#8, 0xDC#8] } }) =
      some ([evW 0x01#8 0x00#8], some (.err .crcMismatch), .idle) := by decide
theorem test_V_EX_4b_overheat_and_crc_cause_nothing :
    view (step { busy .r169 [gave 0x44#8] with recvTarget := .host }) =
      some ([evR 0x06#8 0x44#8], none, .r170) := by decide
theorem test_V_EX_5 :
    view (step { busy .r170 [gave 0x03#8] with recvTarget := .host, host := { buf := [0, 0] } }) =
      some ([evR 0x0A#8 0x03#8], some (.err .invalidArgument), .idle) := by decide
theorem test_V_EX_7 :
    view (step { busy .r172 [gave 0x04#8] with
      recvTarget := .host, arg := { checkCrc := true }, reg := { n := 1 } }) =
      some ([evR 0x0C#8 0x04#8], some (.err .nack), .idle) := by decide
theorem test_V_EX_18_protocol_before_collision :
    view (step { busy .r169 [gave 0x09#8] with recvTarget := .host }) =
      some ([evR 0x06#8 0x09#8], some (.err .protocolError), .idle) := by decide
theorem test_transceive_first_label :
    view (exec (.transceive [0x26#8] (some [0, 0]) 7 0 false) (resting [])) = some ([], none, .r161) := by
  decide
theorem test_mfauthent_has_no_start_send :
    view (step { busy .r166 [wrote] with arg := { cmd := 0x0E#8 } }) =
      some ([evW 0x01#8 0x0E#8], none, .r168t) := by decide
theorem test_halt_timeout_is_ok :
    resume .r224 (.err .timeout) (resting []) = .done (.ok .nothing) (resting []) := by decide
theorem test_P15b_first_phase_nak :
    resume .r251 (.ok .nothing) { resting [] with reg := { n := 1, rxlast := 4, ackb := [0x04#8] } } =
        .done (.err .nack)
          { resting [] with reg := { n := 1, rxlast := 4, ackb := [0x04#8] } } ∧
      resume .r248 (.err .nack) (resting []) = .done (.err .nack) (resting []) := by decide
theorem test_stop_session_first_label :
    view (exec .stopSession (resting [])) = some ([], none, .r125r) := by decide
theorem test_V_ARG_select :
    view (exec (.select none true) (resting [])) = some ([], some (.err .invalidArgument), .idle) ∧
      view (exec (.select (some { size := 5 }) true) (resting [])) =
        some ([], some (.err .invalidArgument), .idle) ∧
      view (exec (.select (some { size := 5 }) false) (resting [])) = some ([], none, .r161) := by decide
theorem test_V_ARG_mifare :
    view (exec (.readBlock 4 (List.replicate 17 0)) (resting [])) =
        some ([], some (.err .invalidArgument), .idle) ∧
      view (exec (.writeBlock 4 (List.replicate 17 0)) (resting [])) =
        some ([], some (.err .invalidArgument), .idle) ∧
      view (exec (.writePage 4 [0, 0, 0]) (resting [])) =
        some ([], some (.err .invalidArgument), .idle) := by decide
theorem test_V_ARG_authenticate :
    view (exec (.authenticateA { size := 5 } (List.replicate 6 0) 4) (resting [])) =
      some ([], some (.err .invalidArgument), .idle) := by decide
theorem test_V_ARG_host_code :
    view (step { host := { port := [.hostop 0x40#8 { }] } }) =
      some ([], some (.err .invalidArgument), .idle) := by decide
theorem test_interleaving_has_no_step :
    (match exec .halt (busy .r141 []) with
      | .next _ => none
      | .fault f => some f
      | .refused _ => none) = some .interleavedOperation := by decide
theorem test_withFetchWord_runs :
    view (step (State.reset.withFetchWord 8 0x12)) = some ([], none, .r141) := by decide
/-- At rest with one operation offered. -/
def withOffer (o : Offer) : State := { host := { port := [o] } }
theorem test_every_count_runs :
    view (step (withOffer (.hostop 0x03#8 { send := [0x26#8], txLastBits := 8, rxAlign := 9 }))) =
      some ([], none, .r161) := by decide
theorem test_rdb_of_128_runs :
    view (step { resting [.transportError] with host := { port := [.regtx (.rdb 0x09#8 128)] } }) =
      some ([.tx (.rdb 0x09#8 128) none], some (.err .transportError), .idle) := by decide
theorem test_verify_crc_of_one_byte_runs :
    view (step (withOffer (.pseudo (.verifyCrc [0x63#8])))) = some ([], none, .r141) := by decide
theorem test_uid_of_nine_bytes_runs :
    view (exec (.authenticateA { size := 10, bytes := List.replicate 9 0 } (List.replicate 6 0) 4)
      (resting [])) = some ([], none, .r161) := by decide
theorem test_no_key_survives :
    (match exec (.authenticateA { size := 5 } [1, 2, 3, 4, 5, 6] 4) (resting []) with
      | .next t => t.arg.key ++ t.reg.txb
      | .fault _ => [0]
      | .refused _ => [0]) = [] := by decide
theorem test_outputs_stay_without_buffer :
    (match step { busy .r169 [gave 0x08#8] with host := { recvLen := 3, rxLastBits := 2 } } with
      | .next t => (t.host.recvLen, t.host.rxLastBits, t.host.result)
      | .fault _ => (0, 0, none)
      | .refused _ => (0, 0, none)) = (3, 2, some (.err .collision)) := by decide
theorem test_reset_memory_wf : Memory.wf State.reset.chip.written := by decide

/-! ## Concrete instances of the hypotheses of the obligations

One theorem for each obligation that has hypotheses, named after it; where the statement has several
clauses, the instance has a conjunct for each, at a boundary of its range. -/

/-- Reads of a CRC computation that completes and gives `hi`, `lo`. -/
def crcGives (hi lo : Byte) : CrcReads := ⟨0x3D#8, 0x04#8, hi, lo⟩

/-- Reads of an exchange that completes with the answer `bs`. -/
def answered (bs : List Byte) (control : Byte := 0) (error : Byte := 0) : ExReads :=
  { framing := 0x07#8, poll := 0x64#8, error := error, level := BitVec.ofNat 8 bs.length, bytes := bs,
    control := control }

/-- Reads of an exchange that ends by the chip's timer flag. -/
def timedOut : ExReads := { framing := 0x07#8, poll := 0x45#8, error := 0 }

/-- Reads of an exchange with the Idle flag and no answer. -/
def idled : ExReads := { framing := 0x07#8, poll := 0x10#8, error := 0 }

/-- The state of an instance: at rest, exactly these answers laid down, nothing behind them. -/
abbrev Laid (answers : List Answer) : Prop :=
  (resting answers).seq = .idle ∧ (resting answers).env.answers = answers ++ []

/-- The default configuration's Transceive command and wait flags. -/
abbrev tc : Byte := Config.default.cmdTransceive
abbrev tf : Byte := transceiveFlags Config.default

theorem test_hyp_DecodeOfEncode :
    Config.default.CommandsDistinct ∧ Config.default.FramesDistinct ∧
      (Instr.anticollCl3 32 [1, 2, 3, 4]).wf = true ∧ (Instr.execute 0 0 [] none 7 7 true).wf = true := by
  decide
theorem test_hyp_FrameIsItsEncoding :
    dec (.frame [0x95#8, 0x57#8, 1, 2, 3, 4] 7) = .instr (.anticollCl2 31 [1, 2, 3, 4]) := by decide
theorem test_hyp_UnknownHostCodeRefused :
    State.reset.seq = .idle ∧ (0x04#8 : Byte) ∉ hostCodes ∧ (0xFF#8 : Byte) ∉ hostCodes := by decide
theorem test_hyp_CollisionPositionMapping :
    Config.default.collPosMask.toNat ≤ 31 ∧ (0x20#8 &&& Config.default.collPosMask).toNat = 0 ∧
      (0x01#8 &&& Config.default.collPosMask).toNat ≠ 0 ∧
      (0x1F#8 &&& Config.default.collPosMask).toNat ≠ 0 := by decide
theorem test_hyp_NvbFormula : (0 : Nat) ≤ 32 ∧ (32 : Nat) ≤ 32 := by decide
theorem test_hyp_PiccTypeOrder :
    (0x24#8 : Byte) &&& 0x04#8 ≠ 0 ∧ ((0x60#8 : Byte) &&& 0x04#8 = 0 ∧ (0x60#8 : Byte) &&& 0x20#8 ≠ 0) ∧
      ((0x40#8 : Byte) &&& 0x04#8 = 0 ∧ (0x40#8 : Byte) &&& 0x20#8 = 0 ∧
        (0x40#8 : Byte) &&& 0x40#8 ≠ 0) ∧
      ((0x08#8 : Byte) &&& 0x64#8 = 0 ∧
        Config.default.sakTable.lookup 0x08#8 = some .mifareClassic1K) ∧
      ((0x88#8 : Byte) &&& 0x64#8 = 0 ∧ Config.default.sakTable.lookup 0x88#8 = none) := by decide
theorem test_hyp_KnownBytesCopyBack :
    (uidSizeLegal hint7.size = true ∧ uidByte hint7 (hint7.size - 4) ≠ cascadeTag) ∧
      uidSizeLegal 4 = true ∧ uidSizeLegal 10 = true := by decide
theorem test_hyp_ReceiveMerge :
    [0xA8#8, 0x11#8].length ≤ [0x5A#8, 0x00#8, 0x00#8].length ∧
      [0xA8#8, 0x11#8] ≠ ([] : List Byte) := by decide
theorem test_hyp_StepRunsDecoded :
    decode State.reset.cfg (.hostop 0x12#8 { }) = .instr .halt ∧ State.reset.seq = .idle := by decide
theorem test_hyp_AcceptsOnlyAtIdle : (busy .r141 []).seq ≠ .idle := by decide
theorem test_hyp_FramingCountsRun :
    (State.reset.seq = .idle ∧
      ExchangeCall Config.default (.execute 0x0C#8 0x30#8 [] none 8 300 false) 0x0C#8 0x30#8 [] none 8
        300 false ∧
      ExchangeCall Config.default (.transceive [0x26#8] (some [0]) 8 8 true) tc tf [0x26#8] (some [0])
        8 8 true) ∧
      ((busy .r165 [wrote]).seq = .r165 ∧ (busy .r165 [wrote]).env.answers = wrote :: []) := by decide
theorem test_hyp_StopsOnlyAtPort :
    view (step (withOffer (.pcdcmd 0x0F#8))) = none ∧
      view (step (withOffer (.frame [0xFF#8] 0))) = none := by decide

/-- A SELECT being answered inside `select`: its error snapshot is read next. -/
def selecting : State :=
  { busy .r169 [gave 0x01#8] [.r215] with
    op := 0x11#8, recvTarget := .sakb, sel := { state := .selecting },
    arg := { cmd := tc, waitFlags := tf, checkCrc := true } }

/-- A collided probe: the position is read next. -/
def collided (att : Nat) (v : Byte) : State :=
  { busy .r209 [gave v] with op := 0x11#8, sel := { state := .colliding, att := att } }

theorem test_selecting_inv : StateInv selecting where
  regs := ⟨by decide, by decide, by decide, by decide, by decide, by decide, by decide, by decide,
    by decide, by decide, by decide, by decide, by decide, by decide⟩
  chain := by decide
  selState := by decide
  rest h := absurd h (by decide)
  busy _ := rfl
  framing _ _ := by decide
  command _ _ := by decide
  primitive h := absurd h (by decide)
  session h := absurd h (by decide)
theorem test_collided_inv (att : Nat) (v : Byte) (h : att ≤ 32) : StateInv (collided att v) where
  regs := ⟨test_reset_memory_wf, rfl, rfl, rfl, rfl, rfl, Nat.zero_le _, h, Nat.zero_le _,
    Nat.zero_le _, Nat.zero_le _, Nat.zero_le _, Nat.zero_le _, test_config_lawful.2.2.1⟩
  chain := .head _
  selState := rfl
  rest h := nomatch h
  busy _ := rfl
  framing h := by simp [InExchange, isExchange, collided, busy, resting] at h
  command h := by simp [InExchange, isExchange, collided, busy, resting] at h
  primitive h := by simp [collided, busy] at h
  session h := by simp [collided, busy] at h

/-- `stop_session` about to write Status2 back. -/
def stopping : State :=
  { busy .r125w [wrote] with
    op := 0x22#8, reg := { scratch := 0x0D#8 },
    prim := { addr := aStatus2, mask := Config.default.st2Crypto1On } }
theorem test_stopping_inv : StateInv stopping where
  regs := ⟨by decide, by decide, by decide, by decide, by decide, by decide, by decide, by decide,
    by decide, by decide, by decide, by decide, by decide, by decide⟩
  chain := by decide
  selState := by decide
  rest h := absurd h (by decide)
  busy _ := rfl
  framing _ _ := by decide
  command h := by simp [InExchange, isExchange, stopping, busy, resting] at h
  primitive h := absurd h (by decide)
  session _ _ := by decide

theorem test_hyp_StepKeepsInv :
    StateInv selecting ∧
      view (step selecting) = some ([evR 0x06#8 0x01#8], some (.err .protocolError), .idle) :=
  ⟨test_selecting_inv, by decide⟩
theorem test_hyp_AccessesOfTheBlock :
    (StateInv selecting ∧ selecting.seq ≠ .idle ∧ selecting.op ≠ 0 ∧
      view (step selecting) = some ([.tx (.rd aError) (some [0x01#8])], some (.err .protocolError),
        .idle)) ∧
      (StateInv stopping ∧ stopping.seq ≠ .idle ∧ stopping.op ≠ 0 ∧
        view (step stopping) = some ([.tx (.wr aStatus2 0x05#8) (some [])], some (.ok .nothing),
          .idle)) :=
  ⟨⟨test_selecting_inv, by decide⟩, test_stopping_inv, by decide⟩
theorem test_hyp_SelStateTransitions :
    StateInv selecting ∧
      (match step selecting with
        | .next t => some t.sel.state
        | .fault _ => none
        | .refused _ => none) = some .idle :=
  ⟨test_selecting_inv, by decide⟩
/-- ConfigFixed, OneEventPerStep, TimeNeverDecreases: a step of an operation, and one at `IDLE`. -/
theorem test_hyp_of_every_step :
    view (step (busy .r147t [])) ≠ none ∧ view (step State.reset) = some ([], none, .idle) := by
  constructor
  · intro h; cases h
  · decide
theorem test_hyp_RecordFrame :
    view (step (busy .r141 [wrote])) = some ([evW 0x01#8 0x00#8], none, .r142) ∧
      view (step (busy .r141 [.transportError])) =
        some ([.tx (.wr 0x01#8 0x00#8) none], some (.err .transportError), .idle) := by decide
theorem test_hyp_TransportErrorEnds :
    ((resting [.transportError]).seq = .idle ∧
      bulkElided (resting []).cfg 1 = false ∧ bulkElided (resting []).cfg [0x50#8].length = false) ∧
    (busy .r141 [.transportError] [.r213]).seq ≠ .idle ∧
      Ret.r193 ∉ (busy .r141 [.transportError] [.r213]).stack ∧
      view (step (busy .r141 [.transportError] [.r213])) =
        some ([.tx (.wr aCommand 0x00#8) none], some (.err .transportError), .idle) := by decide
theorem test_hyp_ErrorsPropagate :
    Ret.r193 ∉ [Ret.r175, Ret.r215, Ret.r195] ∧
      (Ret.r194 ∉ [Ret.r215] ∧ Ret.r206 ∉ [Ret.r215]) ∧
      (Ret.r224 ∉ [Ret.r175, Ret.r206] ∧ Ret.r251 ∉ [Ret.r175, Ret.r206]) := by decide
theorem test_hyp_ActivateFallback :
    ExecError.transportError ≠ .collision ∧ ExecError.timeout ≠ .collision := by decide
theorem test_hyp_ArgumentsRefused :
    State.reset.seq = .idle ∧ (5 : Nat) ∉ [4, 7, 10] ∧ (11 : Nat) ∉ [4, 7, 10] ∧
      [1, 2, 3, 4, 5].length ≠ 6 ∧ (List.replicate 17 (0#8)).length < 18 ∧
      (List.replicate 15 (0#8)).length ≠ 16 ∧ (List.replicate 17 (0#8)).length ≠ 16 ∧
      (List.replicate 3 (0#8)).length ≠ 4 := by decide
theorem test_hyp_ReadsComplete :
    (resting [gave 0x3D#8]).seq = .idle ∧ (resting [.ok [0x04#8, 0x00#8]]).seq = .idle ∧
      bulkElided (resting []).cfg [0x04#8, 0x00#8].length = false := by decide
theorem test_hyp_WritesComplete :
    (resting [wrote]).seq = .idle ∧ (0x01#8 : Byte) ≠ aFifoData ∧
      bulkElided (resting []).cfg [0x50#8].length = false := by decide
theorem test_hyp_EmptyBulkElided :
    (resting []).seq = .idle ∧ (resting []).cfg.zeroLenBulk = .elide := by decide
theorem test_hyp_ChipCommandsComplete :
    (resting [wrote]).seq = .idle ∧ (resting [wrote]).env.answers = wrote :: [] := by decide
theorem test_hyp_ReadModifyWriteComplete :
    (resting [gave 0x07#8, wrote]).seq = .idle ∧
      (resting [gave 0x07#8, wrote]).env.answers = gave 0x07#8 :: wrote :: [] := by decide
theorem test_hyp_PollCompletes :
    (resting [gave 0x44#8, gave 0x65#8] [200, 49]).seq = .idle ∧ [49].sum < 50 ∧
      (∀ x ∈ [0x44#8], anyBit x 0x30#8 = false ∧ anyBit x 0x01#8 = false) ∧
      anyBit 0x65#8 0x30#8 = true := by decide
theorem test_hyp_PollReadOrder :
    (busy .r147r [gave 0x04#8]).seq = .r147r ∧ anyBit 0x04#8 Config.default.divIrqCrc = true ∧
      anyBit 0x65#8 tf = true ∧ (busy .r127r [gave 0x65#8]).seq = .r127r ∧
      (anyBit 0x45#8 tf = false ∧ anyBit 0x45#8 0x01#8 = true) ∧
      (anyBit 0x44#8 tf = false ∧ anyBit 0x44#8 0x01#8 = false) := by decide
theorem test_hyp_DeadlineTest :
    ({ env := { now := 200, ticks := [49] } } : State).env.sample - 200 < Config.default.tExecMs ∧
      Config.default.tExecMs ≤ ({ env := { now := 200, ticks := [50] } } : State).env.sample - 200 ∧
      (busy .r147t []).seq = .r147t ∧ (busy .r168t []).seq = .r168t ∧
      (busy .r127t []).seq = .r127t := by decide
theorem test_hyp_CalculateCrcCompletes :
    (resting (crcAnswers Config.default [0x50#8, 0x00#8] (crcGives 0xCD#8 0x57#8))).seq = .idle ∧
      (crcGives 0xCD#8 0x57#8).Completes Config.default ∧
      (crcGives 0xCD#8 0x57#8).value Config.default = 0xCD57#16 ∧
      Config.default.crcOrder = .highFirstWhenClear ∧
      (crcGives 0xCD#8 0x57#8).mode &&& Config.default.modeMsbFirst = 0 ∧
      (0xBD#8 : Byte) &&& Config.default.modeMsbFirst ≠ 0 := by decide
theorem test_hyp_AppendCrcCompletes :
    (resting (crcAnswers Config.default [0x30#8, 0x04#8] (crcGives 0xEE#8 0x26#8))).seq = .idle ∧
      (crcGives 0xEE#8 0x26#8).frame Config.default [0x30#8, 0x04#8] =
        [0x30#8, 0x04#8, 0x26#8, 0xEE#8] := by decide
theorem test_hyp_VerifyCrcDecides :
    (resting (crcAnswers Config.default [0x08#8] (crcGives 0xDD#8 0xB6#8))).seq = .idle ∧
      (crcGives 0xDD#8 0xB6#8).value Config.default = 0xDDB6#16 ∧
      (crcGives 0xDD#8 0xB6#8).Completes Config.default ∧ [0x63#8].length < 2 ∧
      (resting (crcAnswers Config.default [] (crcGives 0x63#8 0x63#8))).seq = .idle := by decide
theorem test_hyp_ExchangeReceives :
    ExchangeCall Config.default (.transceive [0x26#8] (some [0, 0]) 7 0 false) tc tf [0x26#8]
        (some [0, 0]) 7 0 false ∧
      (answered [0x04#8, 0x00#8]).Completes Config.default tf ∧
      (answered [0x04#8, 0x00#8]).Fits Config.default 2 ∧
      (resting (exchangeAnswers Config.default tc [0x26#8] (answered [0x04#8, 0x00#8]))).seq = .idle := by
  decide
theorem test_hyp_ExchangeSilent :
    ExchangeCall Config.default (.execute 0x0E#8 0x10#8 [0x60#8] none 0 0 true) 0x0E#8 0x10#8
        [0x60#8] none 0 0 true ∧
      idled.Completes Config.default 0x10#8 ∧
      (resting (silentAnswers Config.default 0x0E#8 [0x60#8] idled)).seq = .idle := by decide
theorem test_hyp_ExchangeChecksCrc :
    (answered [0x63#8, 0x63#8]).Completes Config.default tf ∧
      (answered [0x63#8, 0x63#8]).Fits Config.default 3 ∧
      rxLastCount Config.default (answered [0x63#8, 0x63#8]).control = 0 ∧
      (crcGives 0x63#8 0x63#8).Completes Config.default ∧
      (resting (checkedAnswers Config.default tc [0x93#8] (answered [0x63#8, 0x63#8]) []
        (crcGives 0x63#8 0x63#8))).seq = .idle ∧
      ((busy .r172 [gave 0x00#8] [.r215]).seq = .r172 ∧ RecvTarget.sakb ≠ .absent ∧
        (0x00#8 : Byte) &&& Config.default.errCollision = 0 ∧
        rxLastCount Config.default 0x00#8 = 0) := by decide
theorem test_hyp_ProtocolErrorFirst :
    Laid (silentAnswers Config.default tc [0x26#8] (answered [] 0 0x09#8)) ∧
    anyBit (answered [] 0 0x09#8).poll tf = true ∧
      (answered [] 0 0x09#8).error &&& protocolMask Config.default ≠ 0 ∧
      ((busy .r169 [gave 0x44#8] [.r206, .r195]).seq = .r169 ∧
        (0x44#8 : Byte) &&& protocolMask Config.default = 0 ∧
        (0x80#8 : Byte) &&& protocolMask Config.default ≠ 0 ∧ RecvTarget.window 2 ≠ .absent) := by decide
theorem test_hyp_BufferTooSmall :
    Laid (silentAnswers Config.default tc [0x26#8] (answered [1, 2, 3] 0 0x08#8) ++
        gave 0x03#8 :: []) ∧
    anyBit (answered [1, 2, 3] 0 0x08#8).poll tf = true ∧
      (errFlags Config.default (answered [1, 2, 3] 0 0x08#8).error).protocolClass = false ∧
      [0x00#8, 0x00#8].length < fifoCount Config.default (answered [1, 2, 3] 0 0x08#8).level ∧
      ((busy .r170 [gave 0x03#8] [.r193]).seq = .r170 ∧
        [0x00#8, 0x00#8].length < fifoCount Config.default 0x03#8 ∧
        (fifoCount Config.default 0x02#8 ≤ [0x00#8, 0x00#8].length ∧
          bulkElided Config.default (fifoCount Config.default 0x02#8) = false) ∧
        bulkElided Config.default (fifoCount Config.default 0x80#8) = true) := by decide
theorem test_hyp_CollisionReported :
    Laid (exchangeAnswers Config.default tc [0x93#8, 0x20#8] (answered [1, 2] 0 0x08#8)) ∧
    anyBit (answered [1, 2] 0 0x08#8).poll tf = true ∧
      (errFlags Config.default (answered [1, 2] 0 0x08#8).error).protocolClass = false ∧
      (answered [1, 2] 0 0x08#8).error &&& Config.default.errCollision ≠ 0 ∧
      (answered [1, 2] 0 0x08#8).Fits Config.default 5 ∧
      Laid (silentAnswers Config.default tc [0x50#8] (answered [] 0 0x08#8)) ∧
      ((busy .r172 [gave 0x04#8] [.r206]).seq = .r172 ∧
        (0x08#8 : Byte) &&& Config.default.errCollision ≠ 0) ∧
      ((busy .r169 [gave 0x08#8] [.r224]).seq = .r169 ∧
        (busy .r169 [gave 0x08#8] [.r224]).recvTarget = .absent ∧
        (0x08#8 : Byte) &&& protocolMask Config.default = 0) := by decide
theorem test_hyp_ResponseShape :
    Laid (exchangeAnswers Config.default tc [0x30#8] (answered [0x04#8] 0x04#8)) ∧
    ((answered [0x04#8] 0x04#8).Completes Config.default tf ∧ (answered [0x04#8] 0x04#8).bytes.length < 2 ∧
        rxLastCount Config.default (answered [0x04#8] 0x04#8).control = 4) ∧
      ((answered [8, 1, 2] 0x03#8).Completes Config.default tf ∧
        rxLastCount Config.default (answered [8, 1, 2] 0x03#8).control ≠ 0) ∧
      ((busy .r172 [gave 0x04#8] [.r215]).seq = .r172 ∧ rxLastCount Config.default 0x04#8 = 4 ∧
        RecvTarget.sakb ≠ .absent ∧ (0x00#8 : Byte) &&& Config.default.errCollision = 0) := by decide
theorem test_hyp_ShortFramesComplete :
    Laid (exchangeAnswers Config.default tc [0x26#8] (answered [0x04#8, 0x00#8])) ∧
    (answered [0x04#8, 0x00#8]).Completes Config.default tf ∧
      (answered [0x04#8, 0x00#8]).Fits Config.default 2 := by decide
theorem test_hyp_AnticollFramesComplete :
    Laid (exchangeAnswers Config.default tc [0x93#8, 0x33#8, 0xC3#8, 0x05#8]
        (answered [0xFD#8, 1, 2, 3])) ∧
    knownWf 11 [0xC3#8, 0x05#8] = true ∧ (answered [0xFD#8, 1, 2, 3]).Completes Config.default tf ∧
      (answered [0xFD#8, 1, 2, 3]).Fits Config.default 4 ∧ knownWf 32 [1, 2, 3, 4] = true ∧
      (answered [0x04#8]).Fits Config.default 1 := by decide
theorem test_hyp_SelectFramesComplete :
    Laid (crcAnswers Config.default [0x93#8, 0x70#8, 1, 2, 3, 4, 4] (crcGives 1 2) ++
        (checkedAnswers Config.default tc [0x93#8, 0x70#8, 1, 2, 3, 4, 4, 2, 1]
          (answered [0x08#8, 0xB6#8, 0xDD#8]) [0x08#8] (crcGives 0xDD#8 0xB6#8) ++ [])) ∧
    (answered [0x08#8, 0xB6#8, 0xDD#8]).Completes Config.default tf ∧
      (answered [0x08#8, 0xB6#8, 0xDD#8]).Fits Config.default 3 ∧
      (answered [0x08#8, 0xB6#8, 0xDD#8]).bytes =
        (crcGives 0xDD#8 0xB6#8).frame Config.default [0x08#8] ∧
      rxLastCount Config.default (answered [0x08#8, 0xB6#8, 0xDD#8]).control = 0 := by decide

/-- Level 0 of a seven-byte UID (V-KN), its SAK with the cascade bit; then level 1. -/
def twoLevels : List LevelReads :=
  [⟨answered [0x88#8, 0x04#8, 0xA1#8, 0xB2#8, 0x9F#8], crcGives 0x4B#8 0xAE#8,
      answered [0x04#8, 0xDA#8, 0x17#8], 0x04#8, crcGives 0x17#8 0xDA#8⟩,
    ⟨answered [0xC3#8, 0xD4#8, 0xE5#8, 0xF6#8, 0x04#8], crcGives 0x03#8 0x9E#8,
      answered [0x08#8, 0xB6#8, 0xDD#8], 0x08#8, crcGives 0xDD#8 0xB6#8⟩]

theorem test_twoLevels_ok : LevelsOk Config.default twoLevels := by
  refine ⟨by decide, ?_, by decide, by decide⟩
  intro r hr
  simp only [twoLevels, List.mem_cons, List.not_mem_nil, or_false] at hr
  rcases hr with rfl | rfl <;> constructor <;> decide
theorem test_hyp_SelectCompletes :
    (resting (levelsAnswers Config.default none 0 twoLevels)).seq = .idle ∧
      selectArgsLegal none false = true ∧ LevelsOk Config.default twoLevels ∧
      selectArgsLegal (some hint7) true = true ∧
      levelsUid Config.default none { } 0 twoLevels =
        { hint7 with sak := 0x08#8, piccType := .mifareClassic1K } :=
  ⟨by decide, by decide, test_twoLevels_ok, by decide, by decide⟩
theorem test_hyp_ActivateCompletes :
    (Laid (exchangeAnswers Config.default tc [0x26#8] (answered [0x04#8] 0 0x08#8) ++
        levelsAnswers Config.default (some hint7) 0 twoLevels) ∧
      selectArgsLegal (some hint7) true = true ∧ anyBit (answered [0x04#8] 0 0x08#8).poll tf = true ∧
      (errFlags Config.default (answered [0x04#8] 0 0x08#8).error).protocolClass = false ∧
      (answered [0x04#8] 0 0x08#8).Fits Config.default 2 ∧ LevelsOk Config.default twoLevels) ∧
      (Laid (sendAnswers Config.default tc [0x26#8] timedOut ++
        (exchangeAnswers Config.default tc [0x52#8] (answered [0x04#8, 0x00#8]) ++
          levelsAnswers Config.default none 0 twoLevels)) ∧
        anyBit timedOut.poll tf = false ∧ anyBit timedOut.poll Config.default.irqTimer = true) ∧
      (anyBit (answered [] 0 0x02#8).poll tf = true ∧
        (errFlags Config.default (answered [] 0 0x02#8).error).protocolClass = true) :=
  ⟨⟨by decide, by decide, by decide, by decide, by decide, test_twoLevels_ok⟩, by decide⟩
theorem test_hyp_CollisionExtendsPrefix :
    StateInv (collided 1 0x00#8) ∧ (collided 1 0x00#8).seq = .r209 ∧
      (collided 1 0x00#8).sel.att ≠ (collided 1 0x00#8).cfg.maxProbes ∧
      StateInv (collided 32 0x01#8) ∧
      (collided 32 0x01#8).sel.att = (collided 32 0x01#8).cfg.maxProbes :=
  ⟨test_collided_inv 1 0 (by decide), by decide, by decide, test_collided_inv 32 1 (by decide),
    by decide⟩
theorem test_hyp_ProbeOutcome :
    (resting []).sel.buf.length = 9 ∧ ExecError.timeout ≠ .collision := by decide
theorem test_hyp_CascadeDecides :
    ((0x04#8 : Byte) &&& 0x04#8 ≠ 0 ∧ (1 : Nat) < 2) ∧ (2 : Nat) ≤ 2 ∧
      (0x08#8 : Byte) &&& 0x04#8 = 0 := by decide
/-- An exchange inside `l` whose next time sample is 50 ms after the entry of its poll. -/
def overdue (l : Ret) : State :=
  { busy .r168n [] [l] with reg := { t0 := 200 }, env := { now := 249, ticks := [1] } }
theorem test_hyp_HaltCompletes :
    ((overdue .r224).seq = .r168n ∧ (overdue .r224).stack = [.r224] ∧
      (overdue .r224).cfg.tExecMs ≤ (overdue .r224).env.sample - (overdue .r224).reg.t0 ∧
      ExecError.nack ≠ .timeout) ∧
    Laid (crcAnswers Config.default [0x50#8, 0x00#8] (crcGives 0xCD#8 0x57#8) ++
        (sendAnswers Config.default tc [0x50#8, 0x00#8, 0x57#8, 0xCD#8] timedOut ++ [])) ∧
      Laid (crcAnswers Config.default [0x50#8, 0x00#8] (crcGives 0xCD#8 0x57#8) ++
        (silentAnswers Config.default tc [0x50#8, 0x00#8, 0x57#8, 0xCD#8] idled ++ [])) ∧
    (crcGives 0xCD#8 0x57#8).Completes Config.default ∧ anyBit timedOut.poll tf = false ∧
      anyBit timedOut.poll Config.default.irqTimer = true ∧ idled.Completes Config.default tf := by
  decide
theorem test_hyp_AuthenticateCompletes :
    Laid (silentAnswers Config.default 0x0E#8
        [0x61#8, 0x07#8, 1, 2, 3, 4, 5, 6, 0xC3#8, 0xD4#8, 0xE5#8, 0xF6#8] idled) ∧
    hint7.size ∈ [4, 7, 10] ∧ (hint7.bytes.drop (hint7.size - 4)).take 4 =
        [0xC3#8, 0xD4#8, 0xE5#8, 0xF6#8] ∧
      idled.Completes Config.default Config.default.irqIdle := by decide
/-- An answer of sixteen data bytes and their CRC. -/
def blockAnswer : ExReads := answered (List.replicate 16 0x55#8 ++ [0x26#8, 0xEE#8])
theorem test_hyp_ReadBlockCompletes :
    Laid (crcAnswers Config.default [0x30#8, 0x04#8] (crcGives 0xEE#8 0x26#8) ++
        (checkedAnswers Config.default tc [0x30#8, 0x04#8, 0x26#8, 0xEE#8] blockAnswer
          (List.replicate 16 0x55#8) (crcGives 0xEE#8 0x26#8) ++ [])) ∧
    blockAnswer.Completes Config.default tf ∧ blockAnswer.Fits Config.default 18 ∧
      blockAnswer.bytes = (crcGives 0xEE#8 0x26#8).frame Config.default (List.replicate 16 0x55#8) ∧
      rxLastCount Config.default blockAnswer.control = 0 := by decide
theorem test_hyp_AckExchangeDecides :
    Laid (crcAnswers Config.default [0xA2#8, 0x04#8, 1, 2, 3, 4] (crcGives 0x57#8 0x78#8) ++
        (exchangeAnswers Config.default tc [0xA2#8, 0x04#8, 1, 2, 3, 4, 0x78#8, 0x57#8]
          (answered [0x0A#8] 0x04#8) ++ [])) ∧
    (answered [0x0A#8] 0x04#8).Completes Config.default tf ∧
      (answered [0x0A#8] 0x04#8).Fits Config.default 1 ∧ (answered []).Fits Config.default 1 ∧
      rxLastCount Config.default (answered [0x0A#8] 0x04#8).control = 4 := by decide
theorem test_hyp_IgnoreTimeout :
    ((overdue .r251).seq = .r168n ∧ (overdue .r251).stack = [.r251] ∧
      (overdue .r251).cfg.tExecMs ≤ (overdue .r251).env.sample - (overdue .r251).reg.t0) ∧
    Laid (crcAnswers Config.default [0xE0#8] (crcGives 0xCD#8 0x57#8) ++
        (sendAnswers Config.default tc [0xE0#8, 0x57#8, 0xCD#8] timedOut ++ [])) ∧
    (crcGives 0xCD#8 0x57#8).Completes Config.default ∧ anyBit timedOut.poll tf = false ∧
      anyBit timedOut.poll Config.default.irqTimer = true := by decide
theorem test_hyp_WriteBlockCompletes :
    (Laid (crcAnswers Config.default [0xA0#8, 0x04#8] (crcGives 0xF7#8 0x7B#8) ++
        (exchangeAnswers Config.default tc [0xA0#8, 0x04#8, 0x7B#8, 0xF7#8]
          (answered [0x04#8] 0x04#8) ++ [])) ∧
      (answered [0x04#8] 0x04#8).Completes Config.default tf ∧
      (answered [0x04#8] 0x04#8).Fits Config.default 1 ∧
      ¬((answered [0x04#8] 0x04#8).bytes = [0x0A#8] ∧
        rxLastCount Config.default (answered [0x04#8] 0x04#8).control = 4)) ∧
    Laid (crcAnswers Config.default [0xA0#8, 0x04#8] (crcGives 0xF7#8 0x7B#8) ++
        (exchangeAnswers Config.default tc [0xA0#8, 0x04#8, 0x7B#8, 0xF7#8]
            (answered [0x0A#8] 0x04#8) ++
          (crcAnswers Config.default (List.replicate 16 0x55#8) (crcGives 1 2) ++
            (exchangeAnswers Config.default tc (List.replicate 16 0x55#8 ++ [2, 1])
              (answered [0x0A#8] 0x04#8) ++ [])))) ∧
    (List.replicate 16 0x55#8).length = 16 ∧ (crcGives 0xF7#8 0x7B#8).Completes Config.default ∧
      (answered [0x0A#8] 0x04#8).Completes Config.default tf ∧
      (answered [0x0A#8] 0x04#8).bytes = [0x0A#8] ∧
      rxLastCount Config.default (answered [0x0A#8] 0x04#8).control = 4 := by decide

end Sys2Proof.Tests
end

section
/-! The byte of the bit framing step (30_encoding R88). -/

namespace Sys2Proof.Machine

/-- The masks of the default configuration keep the constraints of 92 D11. -/
theorem default_masksLawful : Config.default.MasksLawful := by decide

/-- The low three bits of a count, as a byte, are the count modulo eight (93 U8, log 11). -/
theorem ofNat_and_seven_toNat (n : Nat) : (BitVec.ofNat 8 n &&& 0x07#8).toNat = n % 8 := by
  calc (BitVec.ofNat 8 n &&& 0x07#8).toNat
      = n % 2 ^ 8 &&& 2 ^ 3 - 1 := by rw [BitVec.toNat_and, BitVec.toNat_ofNat]; rfl
    _ = n % 2 ^ 8 % 2 ^ 3 := Nat.and_two_pow_sub_one_eq_mod _ 3
    _ = n % 8 := by omega

/-- The framing byte has no bit outside its two fields, whatever the counts and the masks. -/
theorem bitFraming_and_fields (c : Config) (rxAlign txLastBits : Nat) :
    bitFraming c rxAlign txLastBits &&& (c.bfTxLastMask ||| (0x07#8 <<< c.bfRxAlignShift)) =
      bitFraming c rxAlign txLastBits := by
  unfold bitFraming
  rw [BitVec.shiftLeft_and_distrib]
  ext i hi
  simp only [BitVec.getElem_and, BitVec.getElem_or]
  grind

/-- Where the start-send bit is disjoint from the two fields (92 D11), the framing byte leaves it clear. -/
theorem bitFraming_and_startSend {c : Config} (h : c.MasksLawful) (rxAlign txLastBits : Nat) :
    bitFraming c rxAlign txLastBits &&& c.bfStartSend = 0 := by
  obtain ⟨-, -, -, -, hdisjoint⟩ := h
  rw [← bitFraming_and_fields, BitVec.and_assoc, BitVec.and_comm _ c.bfStartSend, hdisjoint]
  exact BitVec.and_zero

/-- At the default masks the two fields lie side by side, so their union is a sum. -/
theorem bitFraming_default_toNat (rxAlign txLastBits : Nat) :
    (bitFraming Config.default rxAlign txLastBits).toNat = rxAlign % 8 * 16 + txLastBits % 8 := by
  have hlow : txLastBits % 8 < 2 ^ 4 := by omega
  have hfit : (rxAlign % 8) <<< 4 % 2 ^ 8 = (rxAlign % 8) <<< 4 := by
    rw [Nat.shiftLeft_eq]; omega
  calc (bitFraming Config.default rxAlign txLastBits).toNat
      = (rxAlign % 8) <<< 4 % 2 ^ 8 ||| txLastBits % 8 := by
        rw [← ofNat_and_seven_toNat rxAlign, ← ofNat_and_seven_toNat txLastBits]; rfl
    _ = (rxAlign % 8) <<< 4 + txLastBits % 8 := by
        rw [hfit, Nat.shiftLeft_add_eq_or_of_lt hlow]
    _ = rxAlign % 8 * 16 + txLastBits % 8 := by rw [Nat.shiftLeft_eq]

/-- Settles O8: the value from the two fields side by side, the clear start-send bit from the masks'
disjointness, and the two examples of R88. -/
theorem bitFramingFields : Obligations.BitFramingFields := by
  unfold Obligations.BitFramingFields
  refine ⟨fun rxAlign txLastBits => ⟨?value, ?startSendClear⟩, ?examples⟩
  case value => exact bitFraming_default_toNat rxAlign txLastBits
  case startSendClear => exact bitFraming_and_startSend default_masksLawful rxAlign txLastBits
  case examples => decide

end Sys2Proof.Machine
end

section
/-! The parts of the invariant `StateInv`: the operation a step label belongs to, the registers of one
group, the exchange as latched; and how a step inside one operation keeps them. -/

namespace Sys2Proof.Machine

/-! ## The operation a label belongs to -/

/-- The first label of the operation that has the step label (10_state R24). -/
def Seq.entry : Seq → Seq
  | .idle => .idle
  | .r141 | .r142 | .r143 | .r144 | .r145 | .r146 | .r147t | .r147r | .r147n | .r148h | .r148l
  | .r149 => .r141
  | .r161 | .r162 | .r163 | .r164 | .r165 | .r166 | .r167r | .r167w | .r168t | .r168r | .r168n
  | .r169 | .r170 | .r171 | .r172 => .r161
  | .r209 => .r209
  | .r124r | .r124w => .r124r
  | .r125r | .r125w => .r125r
  | .r127t | .r127r | .r127n => .r127t

theorem callersAt_entry (l : Seq) : callersAt l.entry = callersAt l := by cases l <;> rfl

theorem isExchange_entry (l : Seq) : isExchange l.entry = isExchange l := by cases l <;> rfl

theorem selStateAt_entry (l : Seq) (stack : List Ret) :
    selStateAt l.entry stack = selStateAt l stack := by cases l <;> rfl

theorem entry_eq_idle {l : Seq} : l.entry = .idle ↔ l = .idle := by cases l <;> decide

theorem mem_primitive_labels {l : Seq} :
    l ∈ [.r124r, .r124w, .r127t, .r127r, .r127n] ↔ l.entry ∈ [.r124r, .r127t] := by
  cases l <;> decide

theorem mem_session_labels {l : Seq} : l ∈ [.r125r, .r125w] ↔ l.entry = .r125r := by
  cases l <;> decide

/-- Away from the collision register SELSTATE is told by the return stack alone. -/
theorem selStateAt_of_ne {l : Seq} (h : l ≠ .r209) (stack : List Ret) :
    selStateAt l stack = selStateAt .r141 stack := by simp [selStateAt, h]

/-! ## Registers in range -/

/-- The part of `RegsOk` about the registers of the poll loop, the executor and the MIFARE protocol. -/
structure WorkFits (now : Nat) (r : WorkRegs) : Prop where
  ackb : r.ackb.length = 1
  n : r.n ≤ 127
  rxlast : r.rxlast ≤ 7
  time : r.t0 ≤ now

/-- The part of `RegsOk` about the registers of the Select engine. -/
structure SelFits (c : Config) (r : SelectRegs) : Prop where
  buf : r.buf.length = 9
  sakb : r.sakb.length = 3
  atqa : r.atqa.length = 2
  uid : r.uidAcc.bytes.length = 10
  kb : r.kb ≤ 32
  att : r.att ≤ c.maxProbes
  level : r.level ≤ 2
  collpos : r.collpos ≤ 32

theorem RegsOk.work {s : State} (h : RegsOk s) : WorkFits s.env.now s.reg := { h with }

theorem RegsOk.select {s : State} (h : RegsOk s) : SelFits s.cfg s.sel := { h with }

/-- `RegsOk` is its two parts, the canonical record and a lawful configuration. -/
theorem RegsOk.of_parts {s : State} (memory : Memory.wf s.chip.written)
    (work : WorkFits s.env.now s.reg) (select : SelFits s.cfg s.sel) (fields : s.cfg.FieldsFit) :
    RegsOk s := { work, select with memory, fields }

/-! ## The invariant between two labels -/

/-- The exchange as latched fits its fields and commands (`StateInv.framing`, `StateInv.command`). -/
structure Framed (c : Config) (op : Byte) (a : Args) : Prop where
  framing : op ∉ [0x02#8, 0x03#8] → a.txLastBits ≤ 7 ∧ a.rxAlign ≤ 7
  command : op ≠ 0x02#8 → a.cmd = c.cmdTransceive ∨ a.cmd = c.cmdMfAuthent

theorem StateInv.framed {s : State} (h : StateInv s) (hx : InExchange s) :
    Framed s.cfg s.op s.arg := ⟨h.framing hx, h.command hx⟩

/-- What every rule keeps, whatever the label: registers in range, an empty result port (log 28). -/
structure Working (s : State) : Prop where
  regs : RegsOk s
  result : s.host.result = none

theorem StateInv.working {s : State} (h : StateInv s) (hb : s.seq ≠ .idle) : Working s :=
  ⟨h.regs, h.busy hb⟩

theorem Working.withReg {s : State} (h : Working s) {r : WorkRegs} (fits : WorkFits s.env.now r) :
    Working { s with reg := r } :=
  ⟨.of_parts h.regs.memory fits h.regs.select h.regs.fields, h.result⟩

theorem Working.withSel {s : State} (h : Working s) {r : SelectRegs} (fits : SelFits s.cfg r) :
    Working { s with sel := r } :=
  ⟨.of_parts h.regs.memory h.regs.work fits h.regs.fields, h.result⟩

theorem Working.afterTx {s : State} (h : Working s) (t : Tx) : Working (s.afterTx t) :=
  ⟨{ h.regs with memory := afterTx_wf t h.regs.memory }, h.result⟩

theorem Working.afterNow {s : State} (h : Working s) : Working s.afterNow :=
  ⟨{ h.regs with time := h.regs.time.trans s.env.now_le_sample }, h.result⟩

/-- The invariant at a label of the CRC protocol, of `execute` or of the collision read. -/
theorem StateInv.of_working {s : State} (w : Working s) (label : s.seq.entry ∈ [.r141, .r161, .r209])
    (chain : s.stack ∈ callersAt s.seq) (selState : s.sel.state = selStateAt s.seq s.stack)
    (framed : InExchange s → Framed s.cfg s.op s.arg) : StateInv s where
  regs := w.regs
  chain := chain
  selState := selState
  rest hi := by simp [hi, Seq.entry] at label
  busy _ := w.result
  framing hx := (framed hx).framing
  command hx := (framed hx).command
  primitive hp := by
    rw [mem_primitive_labels] at hp
    simp only [List.mem_cons, List.not_mem_nil, or_false] at hp label
    rcases hp with hp | hp <;> simp [hp] at label
  session hp := by
    rw [mem_session_labels] at hp
    simp [hp] at label

/-- `u` is inside the same operation as `s`, called by the same rules, with the same arguments. -/
structure SameCall (s u : State) : Prop where
  entry : u.seq.entry = s.seq.entry
  stack : u.stack = s.stack
  selState : u.sel.state = s.sel.state
  op : u.op = s.op
  arg : u.arg = s.arg
  prim : u.prim = s.prim
  cfg : u.cfg = s.cfg
  result : u.host.result = s.host.result

theorem SameCall.inExchange {s u : State} (h : SameCall s u) : InExchange u ↔ InExchange s := by
  unfold InExchange
  rw [← isExchange_entry u.seq, h.entry, isExchange_entry, h.stack]

/-- Inside one operation the invariant is kept when the registers stay in range. -/
theorem StateInv.next {s u : State} (h : StateInv s) (hb : s.seq ≠ .idle) (same : SameCall s u)
    (regs : RegsOk u) : StateInv u where
  regs := regs
  chain := by
    rw [← callersAt_entry, same.entry, callersAt_entry, same.stack]
    exact h.chain
  selState := by
    rw [← selStateAt_entry, same.entry, selStateAt_entry, same.stack, same.selState]
    exact h.selState
  rest hi := by
    rw [← entry_eq_idle, same.entry, entry_eq_idle] at hi
    exact absurd hi hb
  busy _ := same.result.trans (h.busy hb)
  framing hx hop := by
    rw [same.arg]
    exact h.framing (same.inExchange.1 hx) (same.op ▸ hop)
  command hx hop := by
    rw [same.arg, same.cfg]
    exact h.command (same.inExchange.1 hx) (same.op ▸ hop)
  primitive hp := by
    rw [mem_primitive_labels, same.entry, ← mem_primitive_labels] at hp
    exact same.op.trans (h.primitive hp)
  session hp hop := by
    rw [mem_session_labels, same.entry, ← mem_session_labels] at hp
    rw [same.op, same.prim, same.cfg]
    exact h.session hp (same.op ▸ hop)

theorem StateInv.goto {s : State} (h : StateInv s) (hb : s.seq ≠ .idle) {l : Seq}
    (hl : l.entry = s.seq.entry) : StateInv (goto l s) :=
  h.next hb ⟨hl, rfl, rfl, rfl, rfl, rfl, rfl, rfl⟩ { h.regs with }

theorem StateInv.withReg {s : State} (h : StateInv s) (hb : s.seq ≠ .idle) {r : WorkRegs}
    (fits : WorkFits s.env.now r) : StateInv { s with reg := r } :=
  h.next hb ⟨rfl, rfl, rfl, rfl, rfl, rfl, rfl, rfl⟩ ((h.working hb).withReg fits).regs

theorem StateInv.afterTx {s : State} (h : StateInv s) (hb : s.seq ≠ .idle) (t : Tx) :
    StateInv (s.afterTx t) :=
  h.next hb ⟨rfl, rfl, rfl, rfl, rfl, rfl, rfl, rfl⟩ ((h.working hb).afterTx t).regs

theorem StateInv.afterNow {s : State} (h : StateInv s) (hb : s.seq ≠ .idle) : StateInv s.afterNow :=
  h.next hb ⟨rfl, rfl, rfl, rfl, rfl, rfl, rfl, rfl⟩ (h.working hb).afterNow.regs

/-- An operation that has ended is at rest, and the invariant holds there. -/
theorem deliver_inv {s : State} (h : RegsOk s) (r : Res) : StateInv (deliver r s) where
  regs := .of_parts h.memory ⟨rfl, Nat.zero_le _, Nat.zero_le _, Nat.zero_le _⟩
    ⟨rfl, rfl, rfl, rfl, Nat.zero_le _, Nat.zero_le _, Nat.zero_le _, Nat.zero_le _⟩ h.fields
  chain := by simp [callersAt]
  selState := rfl
  rest _ := deliver_atRest r s
  busy hi := absurd rfl hi
  framing hx := by simp [InExchange, isExchange] at hx
  command hx := by simp [InExchange, isExchange] at hx
  primitive hp := by simp at hp
  session hp := by simp at hp

/-- No return stack of the invariant is deeper than three (10_state R24). -/
theorem StateInv.stack_length_le {s : State} (h : StateInv s) : s.stack.length ≤ 3 := by
  have hcallers : ∀ l : Seq, ∀ st ∈ callersAt l, st.length ≤ 3 := by
    intro l
    cases l <;> decide
  exact hcallers _ _ h.chain

/-! ## A nested operation that ends -/

/-- The return stacks an operation can end on. -/
abbrev endCallers : List (List Ret) := crcCallers ++ executeCallers ++ [[.r195], [.r248]]

/-- What may stand on a return stack below the rule that takes a result (10_state R24). -/
def stacksBelow : Ret → List (List Ret)
  | .r175 => executeCallers
  | .r206 | .r213 | .r215 => selectCallers
  | .r250 | .r251 => [[], [.r248]]
  | .r94 | .r151 | .r152 | .r193 | .r194 | .r195 | .r214 | .r223 | .r224 | .r248 => [[]]

theorem mem_stacksBelow {l : Ret} {rest : List Ret} (h : l :: rest ∈ endCallers) :
    rest ∈ stacksBelow l :=
  (by decide : ∀ st ∈ endCallers, ∀ l ∈ st.head?, st.tail ∈ stacksBelow l) _ h l rfl

theorem tail_mem_endCallers {l : Ret} {rest : List Ret} (h : l :: rest ∈ endCallers) :
    rest ∈ endCallers :=
  (by decide : ∀ st ∈ endCallers, st.tail ∈ endCallers) _ h

/-- A result passed on leaves SELSTATE as the stack below says, or goes to the end of `select`. -/
theorem selStateAt_tail {l : Ret} {rest : List Ret} (h : l :: rest ∈ endCallers)
    (hrest : rest ∉ selectCallers) :
    l :: rest ∉ selectCallers ∧ selStateAt .r141 (l :: rest) = selStateAt .r141 rest :=
  (by decide : ∀ st ∈ endCallers, st.tail ∉ selectCallers →
    st ∉ selectCallers ∧ selStateAt .r141 st = selStateAt .r141 st.tail) _ h hrest

theorem callersAt_subset_endCallers (l : Seq) : ∀ st ∈ callersAt l, st ∈ endCallers := by
  cases l <;> decide

/-- An operation has ended in `s`, and its result goes up the return stack `rest`. -/
structure Ending (rest : List Ret) (s : State) : Prop where
  working : Working s
  callers : rest ∈ endCallers
  selState : rest ∉ selectCallers → s.sel.state = selStateAt .r141 rest
  framed : .r94 ∈ rest ∨ .r250 ∈ rest → Framed s.cfg s.op s.arg

/-- A rule that only ever stands alone on the return stack. -/
theorem Ending.alone {l : Ret} {rest : List Ret} {s : State} (h : Ending (l :: rest) s)
    (hl : stacksBelow l = [[]]) : rest = [] := by
  have hrest := mem_stacksBelow h.callers
  rwa [hl, List.mem_singleton] at hrest

/-- On the stack of a `select`, and on the empty stack, an operation may end in any SELSTATE. -/
theorem Ending.of_select {rest : List Ret} {s : State} (w : Working s)
    (callers : rest ∈ selectCallers) : Ending rest s where
  working := w
  callers := (by decide : ∀ st ∈ selectCallers, st ∈ endCallers) _ callers
  selState h := absurd callers h
  framed h := absurd h ((by decide : ∀ st ∈ selectCallers, ¬ (.r94 ∈ st ∨ .r250 ∈ st)) _ callers)

/-- A return rule that passes the result on. -/
theorem Ending.pop {l : Ret} {rest : List Ret} {s : State} (h : Ending (l :: rest) s) :
    Ending rest { s with stack := rest } where
  working := ⟨{ h.working.regs with }, h.working.result⟩
  callers := tail_mem_endCallers h.callers
  selState hrest :=
    have ⟨hl, he⟩ := selStateAt_tail h.callers hrest
    (h.selState hl).trans he
  framed hf := h.framed (hf.imp (.tail _) (.tail _))

/-- An operation in progress may end at any of its steps. -/
theorem StateInv.ending {s : State} (h : StateInv s) (hb : s.seq ≠ .idle) : Ending s.stack s where
  working := h.working hb
  callers := callersAt_subset_endCallers _ _ h.chain
  selState hsel := by
    have hlabel : s.seq ≠ .r209 := fun e => hsel (by have hc := h.chain; rwa [e] at hc)
    exact h.selState.trans (selStateAt_of_ne hlabel _)
  framed hf := h.framed (.inr hf)

/-- A rule that keeps the invariant: it goes on at a label where it holds, or ends the operation in
hand, whose result then goes up the return stack `rest`. -/
def FlowKeeps (rest : List Ret) : Flow → Prop
  | .running s => StateInv s
  | .done _ s => Ending rest s

/-- A step that keeps the invariant: where it ends an operation, the result goes up the state's own
return stack. -/
def FlowSettles : Flow → Prop
  | .running s => StateInv s
  | .done _ s => Ending s.stack s

/-- Where an operation without a caller is left, the invariant holds. -/
theorem land_inv {rest : List Ret} {f : Flow} (h : FlowKeeps rest f) : StateInv (land f) := by
  cases f with
  | running s => exact h
  | done r s => exact deliver_inv h.working.regs r

end Sys2Proof.Machine
end

section
/-! The rules that enter an operation or take the result of one keep the invariant. -/

namespace Sys2Proof.Machine

/-! ## Lengths and bounds of the operands -/

@[simp] theorem overlay_length (old new : List Byte) : (overlay old new).length = old.length := by
  simp only [overlay, List.length_append, List.length_take, List.length_drop]
  omega

@[simp] theorem overlayAt_length (old : List Byte) (off : Nat) (new : List Byte) :
    (overlayAt old off new).length = old.length := by
  simp only [overlayAt, List.length_append, List.length_take, overlay_length, List.length_drop]
  omega

@[simp] theorem receivedInto_length (rxAlign : Nat) (old d : List Byte) :
    (receivedInto rxAlign old d).length = old.length := overlay_length _ _

@[simp] theorem setCollisionBit_length (p : Nat) (buf : List Byte) :
    (setCollisionBit p buf).length = buf.length := by simp [setCollisionBit]

/-- A masked byte is at most the mask. -/
theorem toNat_and_le (v m : Byte) : (v &&& m).toNat ≤ m.toNat := by
  rw [BitVec.toNat_and]
  exact Nat.and_le_right

theorem fifoCount_le {c : Config} (h : c.FieldsFit) (v : Byte) : fifoCount c v ≤ 127 :=
  have ⟨hfifo, _, _, _⟩ := h
  (toNat_and_le v c.fifoLevelMask).trans hfifo

theorem rxLastCount_le {c : Config} (h : c.FieldsFit) (v : Byte) : rxLastCount c v ≤ 7 :=
  have ⟨_, hrx, _, _⟩ := h
  (toNat_and_le v c.ctrlRxLastMask).trans hrx

theorem collisionPosition_le {c : Config} (h : c.FieldsFit) (v : Byte) :
    collisionPosition c v ≤ 32 := by
  obtain ⟨_, _, hcoll, _⟩ := h
  have := toNat_and_le v c.collPosMask
  simp only [collisionPosition]
  split <;> omega

/-! ## Entering `calculate_crc` and `execute` -/

/-- Entering the CRC protocol, with the return stack as it stands. -/
theorem enterCrc_keeps {rest : List Ret} {s : State} (buffer : List Byte) (w : Working s)
    (chain : s.stack ∈ crcCallers) (selState : s.sel.state = selStateAt .r141 s.stack)
    (framed : .r94 ∈ s.stack ∨ .r250 ∈ s.stack → Framed s.cfg s.op s.arg) :
    FlowKeeps rest (enterCrc buffer s) := by
  refine StateInv.of_working ⟨{ w.regs with }, w.result⟩ (.head _) chain selState fun hx => ?_
  have hf := framed (hx.resolve_left (by simp [isExchange]))
  exact ⟨hf.framing, hf.command⟩

/-- A nested CRC computation whose result goes to `l`. -/
theorem callCrc_keeps {rest : List Ret} {l : Ret} {s : State} (buffer : List Byte) (w : Working s)
    (chain : l :: s.stack ∈ crcCallers) (selState : s.sel.state = selStateAt .r141 (l :: s.stack))
    (framed : .r94 ∈ l :: s.stack ∨ .r250 ∈ l :: s.stack → Framed s.cfg s.op s.arg) :
    FlowKeeps rest (callCrc l buffer s) :=
  enterCrc_keeps buffer ⟨{ w.regs with }, w.result⟩ chain selState framed

/-- Entering an exchange, with the return stack as it stands. -/
theorem enterExecute_keeps {rest : List Ret} {s : State} (w : Working s)
    (chain : s.stack ∈ executeCallers) (selState : s.sel.state = selStateAt .r141 s.stack)
    (framed : Framed s.cfg s.op s.arg) : FlowKeeps rest (enterExecute s) :=
  StateInv.of_working ⟨{ w.regs with }, w.result⟩ (.tail _ (.head _)) chain selState fun _ => framed

theorem Working.push {s : State} (h : Working s) (l : Ret) : Working (push l s) :=
  ⟨{ h.regs with }, h.result⟩

theorem Working.latchExchange {s : State} (h : Working s) (cmd w : Byte) (send : List Byte)
    (target : RecvTarget) (tx rx : Nat) (check : Bool) :
    Working (latchExchange cmd w send target tx rx check s) := ⟨{ h.regs with }, h.result⟩

theorem Working.latchTransceive {s : State} (h : Working s) (send : List Byte) (target : RecvTarget)
    (tx rx : Nat) (check : Bool) : Working (latchTransceive send target tx rx check s) :=
  h.latchExchange _ _ _ _ _ _ _

theorem Working.setSelState {s : State} (h : Working s) (st : SelState) : Working (setSelState st s) :=
  h.withSel { h.regs.select with }

theorem Working.appendCrcToTxb {s : State} (h : Working s) : Working (appendCrcToTxb s) :=
  h.withReg { h.regs.work with }

/-- A Transceive exchange whose counts fit their fields. -/
theorem Framed.of_transceive {c : Config} {op : Byte} {a : Args} (hcmd : a.cmd = c.cmdTransceive)
    (htx : a.txLastBits ≤ 7) (hrx : a.rxAlign ≤ 7) : Framed c op a :=
  ⟨fun _ => ⟨htx, hrx⟩, fun _ => .inl hcmd⟩

/-! ## The Select engine -/

/-- The stacks below an operation of the Select engine, with one of its rules on top. -/
theorem selectCallers_nest {rest : List Ret} (h : rest ∈ selectCallers) :
    (.r206 :: rest ∈ executeCallers ∧ selStateAt .r141 (.r206 :: rest) = .probing) ∧
      (.r213 :: rest ∈ crcCallers ∧ selStateAt .r141 (.r213 :: rest) = .selecting ∧
        ¬ (.r94 ∈ .r213 :: rest ∨ .r250 ∈ .r213 :: rest)) ∧
      (.r215 :: rest ∈ executeCallers ∧ selStateAt .r141 (.r215 :: rest) = .selecting) :=
  (by decide : ∀ st ∈ selectCallers,
    (.r206 :: st ∈ executeCallers ∧ selStateAt .r141 (.r206 :: st) = .probing) ∧
      (.r213 :: st ∈ crcCallers ∧ selStateAt .r141 (.r213 :: st) = .selecting ∧
        ¬ (.r94 ∈ .r213 :: st ∨ .r250 ∈ .r213 :: st)) ∧
      (.r215 :: st ∈ executeCallers ∧ selStateAt .r141 (.r215 :: st) = .selecting)) _ h

section
variable {rest : List Ret} {s : State}

/-- The counts of a probe are the bits beyond its whole bytes (43_select R206). -/
theorem latchProbe_framed (s : State) :
    Framed (latchProbe s).cfg (latchProbe s).op (latchProbe s).arg :=
  have hkb : s.sel.kb % 8 ≤ 7 := by omega
  .of_transceive rfl hkb hkb

theorem latchSelect_framed (s : State) :
    Framed (latchSelect s).cfg (latchSelect s).op (latchSelect s).arg :=
  .of_transceive rfl (Nat.zero_le _) (Nat.zero_le _)

variable (w : Working s)
include w

/-- An error inside `select` or at its end. -/
theorem selectFails_keeps (hrest : rest ∈ selectCallers) (e : ExecError) :
    FlowKeeps rest (selectFails e s) :=
  Ending.of_select (w.setSelState .idle) hrest

theorem levelInit_working : Working (levelInit s) :=
  w.withSel { w.regs.select with
    buf := rfl, kb := Nat.zero_le _, att := Nat.zero_le _, collpos := Nat.zero_le _ }

theorem loadKnown_working (u : Uid) : Working (loadKnown u s) :=
  w.withSel { w.regs.select with
    buf := by rw [overlayAt_length]; exact w.regs.buf
    kb := Nat.le_refl _ }

theorem latchProbe_working (hatt : s.sel.att < s.cfg.maxProbes) : Working (latchProbe s) :=
  (w.withSel (r := { s.sel with att := s.sel.att + 1, buf := s.sel.buf.set 1 (nvbOf s.sel.kb) })
    { w.regs.select with
      buf := by rw [List.length_set]; exact w.regs.buf
      att := hatt }).latchTransceive _ _ _ _ _

theorem latchSelect_working : Working (latchSelect s) :=
  (w.withSel (r := { s.sel with buf := overlayAt s.sel.buf 7 (crcBytes s.reg.crc), sakb := [0, 0, 0] })
    { w.regs.select with
      buf := by rw [overlayAt_length]; exact w.regs.buf
      sakb := rfl }).latchTransceive _ _ _ _ _

theorem extendPrefix_working {p : Nat} (hp : p ≤ 32) : Working (extendPrefix p s) :=
  w.withSel { w.regs.select with
    buf := by rw [setCollisionBit_length]; exact w.regs.buf
    kb := hp
    collpos := hp }

/-- A probe within the bound of R211. -/
theorem sendProbe_keeps (hc : s.stack ∈ selectCallers) (hst : s.sel.state = .probing)
    (hatt : s.sel.att < s.cfg.maxProbes) : FlowKeeps rest (sendProbe s) :=
  have ⟨⟨chain, st⟩, _, _⟩ := selectCallers_nest hc
  enterExecute_keeps ((latchProbe_working w hatt).push _) chain (hst.trans st.symm)
    (latchProbe_framed s)

theorem startSelecting_keeps (hc : s.stack ∈ selectCallers) : FlowKeeps rest (startSelecting s) :=
  have ⟨_, ⟨chain, st, hf⟩, _⟩ := selectCallers_nest hc
  callCrc_keeps _
    (w.withSel { w.regs.select with buf := by rw [List.length_set]; exact w.regs.buf })
    chain st.symm fun h => absurd h hf

/-- A level from its start, known or probed (R200 to R204). -/
theorem startLevel_keeps (hc : s.stack ∈ selectCallers) : FlowKeeps rest (startLevel s) := by
  obtain ⟨_, _, _, hprobes⟩ := w.regs.fields
  have hinit := levelInit_working w
  unfold startLevel
  dsimp only
  split
  · exact startSelecting_keeps (loadKnown_working hinit _) hc
  · exact sendProbe_keeps (hinit.setSelState .probing) hc rfl hprobes

theorem enterSelect_keeps (hc : s.stack ∈ selectCallers) (hrest : rest ∈ selectCallers) :
    FlowKeeps rest (enterSelect s) := by
  unfold enterSelect
  split
  · exact startLevel_keeps (s := { s with sel := { s.sel with uidAcc := { }, level := 0 } })
      (w.withSel { w.regs.select with uid := rfl, level := Nat.zero_le _ }) hc
  · exact Ending.of_select w hrest

/-- The UID record is finished (R220). -/
theorem finaliseUid_keeps (hrest : rest ∈ selectCallers) (sak : Byte) :
    FlowKeeps rest (finaliseUid sak s) := by
  refine Ending.of_select (Working.setSelState (Working.setSelState ?_ _) _) hrest
  exact w.withSel { w.regs.select with uid := w.regs.uid }

/-- A SELECT that was answered: the next level, or the end of `select` (R216 to R220). -/
theorem selectAnswered_keeps (hc : s.stack ∈ selectCallers) (hrest : rest ∈ selectCallers) :
    FlowKeeps rest (selectAnswered s) := by
  have hcopy : Working
      { s with sel := { s.sel with uidAcc := copyLevel s.sel.level s.sel.buf s.sel.uidAcc } } :=
    w.withSel { w.regs.select with
      uid := by simp only [copyLevel, overlayAt_length]; exact w.regs.uid }
  unfold selectAnswered
  dsimp only
  split
  · split
    next hlevel =>
      exact startLevel_keeps (s := { s with sel := _ })
        (hcopy.withSel { hcopy.regs.select with level := Nat.succ_le_of_lt hlevel }) hc
    next => exact selectFails_keeps (hcopy.setSelState .exhausted) hrest _
  · exact finaliseUid_keeps hcopy hrest _

end

/-! ## Standard frames and the MIFARE protocol -/

/-- The CRC of a frame whose exchange is latched first (30_encoding R94). -/
theorem startFrame_keeps {rest : List Ret} {l : Ret} {s : State} (w : Working s)
    (chain : l :: s.stack ∈ crcCallers) (selState : s.sel.state = selStateAt .r141 (l :: s.stack))
    (payload : List Byte) (target : RecvTarget) (check : Bool) :
    FlowKeeps rest (startFrame l payload target check s) :=
  callCrc_keeps payload (w.latchTransceive _ _ _ _ _) chain selState fun _ =>
    .of_transceive rfl (Nat.zero_le _) (Nat.zero_le _)

/-- `mifare_transceive` is entered on its own or for the first phase of a block write. -/
theorem enterMifare_keeps {rest : List Ret} {s : State} (w : Working s)
    (chain : s.stack ∈ [[], [.r248]]) (hst : s.sel.state = .idle) (payload : List Byte)
    (ignoreTimeout : Bool) : FlowKeeps rest (enterMifare payload ignoreTimeout s) := by
  have hc : .r250 :: s.stack ∈ crcCallers ∧ selStateAt .r141 (.r250 :: s.stack) = .idle :=
    (by decide : ∀ st ∈ [[], [.r248]],
      .r250 :: st ∈ crcCallers ∧ selStateAt .r141 (.r250 :: st) = .idle) _ chain
  exact startFrame_keeps
    (s := { s with arg := { s.arg with payload := payload, ignoreTimeout := ignoreTimeout } })
    ⟨{ w.regs with }, w.result⟩ hc.1 (hst.trans hc.2.symm) payload _ _

end Sys2Proof.Machine
end

section
/-! The return rules keep the invariant, and with them the way of a result up the return stack. -/

namespace Sys2Proof.Machine

/-- The REQA or WUPA exchange of `activate` (43_select R193, R194). -/
theorem shortExchange_keeps {rest : List Ret} {l : Ret} {s : State} (w : Working s)
    (hl : l :: s.stack ∈ [[.r193], [.r194]]) (hst : s.sel.state = .idle) (cmd : Byte) :
    FlowKeeps rest (enterExecute (push l (latchShort cmd s))) := by
  have hc : l :: s.stack ∈ executeCallers ∧ selStateAt .r141 (l :: s.stack) = .idle :=
    (by decide : ∀ st ∈ [[.r193], [.r194]],
      st ∈ executeCallers ∧ selStateAt .r141 st = .idle) _ hl
  exact enterExecute_keeps ((w.latchTransceive [cmd] .atqa 7 0 false).push l) hc.1
    (hst.trans hc.2.symm) (.of_transceive rfl (Nat.le_refl 7) (Nat.zero_le 7))

/-- `activate` goes on to `select` (43_select R195). -/
theorem proceedToSelect_keeps {s : State} (w : Working s) (hs : s.stack = []) :
    FlowKeeps [] (proceedToSelect s) :=
  enterSelect_keeps (w.push .r195) (by rw [push_stack, hs]; decide) (.head _)

/-! ## One lemma for each return rule -/

section
variable {rest : List Ret} {s : State}

theorem frameCrcDone_keeps (h : Ending (.r94 :: rest) s) (r : Res) :
    FlowKeeps rest (frameCrcDone r { s with stack := rest }) := by
  cases r with
  | err e => exact h.pop
  | ok v =>
    obtain rfl := h.alone rfl
    exact enterExecute_keeps h.pop.working.appendCrcToTxb (.head _) (h.selState (by decide))
      (h.framed (.inl (.head _)))

theorem appendCrcDone_keeps (h : Ending (.r151 :: rest) s) (r : Res) :
    FlowKeeps rest (appendCrcDone r { s with stack := rest }) := by
  cases r with
  | err e => exact h.pop
  | ok v =>
    obtain rfl := h.alone rfl
    exact Ending.of_select h.pop.working.appendCrcToTxb (.head _)

theorem verifyCrcDone_keeps (h : Ending (.r152 :: rest) s) (r : Res) :
    FlowKeeps rest (verifyCrcDone r { s with stack := rest }) := by
  cases r with
  | err e => exact h.pop
  | ok v =>
    simp only [verifyCrcDone]
    split <;> exact h.pop

theorem exCrcDone_keeps (h : Ending (.r175 :: rest) s) (r : Res) :
    FlowKeeps rest (exCrcDone r { s with stack := rest }) := by
  cases r with
  | err e => exact h.pop
  | ok v =>
    simp only [exCrcDone]
    split <;> exact h.pop

theorem reqaDone_keeps (h : Ending (.r193 :: rest) s) (r : Res) :
    FlowKeeps rest (reqaDone r { s with stack := rest }) := by
  obtain rfl := h.alone rfl
  have hwupa : FlowKeeps [] (enterExecute (push .r194 (latchShort piccWupa { s with stack := [] }))) :=
    shortExchange_keeps h.pop.working (.tail _ (.head _)) (h.selState (by decide)) _
  have hselect := proceedToSelect_keeps h.pop.working rfl
  unfold reqaDone
  split
  · exact hselect
  · exact hselect
  · exact hwupa

theorem wupaDone_keeps (h : Ending (.r194 :: rest) s) (r : Res) :
    FlowKeeps rest (wupaDone r { s with stack := rest }) := by
  obtain rfl := h.alone rfl
  have hselect := proceedToSelect_keeps h.pop.working rfl
  unfold wupaDone
  split
  · exact hselect
  · exact hselect
  · exact h.pop

/-- After a collision the position is read next, at a label of the same `select` (R209). -/
theorem probeDone_keeps (h : Ending (.r206 :: rest) s) (r : Res) :
    FlowKeeps rest (probeDone r { s with stack := rest }) := by
  have hrest : rest ∈ selectCallers := mem_stacksBelow h.callers
  have w := h.pop.working
  unfold probeDone
  split
  · exact startSelecting_keeps w hrest
  · exact StateInv.of_working ⟨{ (w.setSelState .colliding).regs with }, w.result⟩
      (.tail _ (.tail _ (.head _))) hrest
      rfl (fun hx => by
        have hf : ¬ (.r94 ∈ rest ∨ .r250 ∈ rest) :=
          (by decide : ∀ st ∈ selectCallers, ¬ (.r94 ∈ st ∨ .r250 ∈ st)) _ hrest
        exact absurd (hx.resolve_left (by simp [isExchange])) hf)
  · exact selectFails_keeps w hrest _

theorem selectCrcDone_keeps (h : Ending (.r213 :: rest) s) (r : Res) :
    FlowKeeps rest (selectCrcDone r { s with stack := rest }) := by
  have hrest : rest ∈ selectCallers := mem_stacksBelow h.callers
  have ⟨_, ⟨_, hselecting, _⟩, chain, selState⟩ := selectCallers_nest hrest
  cases r with
  | err e => exact selectFails_keeps h.pop.working hrest e
  | ok v =>
    exact enterExecute_keeps ((latchSelect_working h.pop.working).push .r215) chain
      (((h.selState (by simp)).trans hselecting).trans selState.symm) (latchSelect_framed _)

theorem selectFrameCrcDone_keeps (h : Ending (.r214 :: rest) s) (r : Res) :
    FlowKeeps rest (selectFrameCrcDone r { s with stack := rest }) := by
  cases r with
  | err e => exact h.pop
  | ok v =>
    obtain rfl := h.alone rfl
    exact enterExecute_keeps (latchSelect_working h.pop.working) (.head _)
      (h.selState (by decide)) (latchSelect_framed _)

theorem selectDone_keeps (h : Ending (.r215 :: rest) s) (r : Res) :
    FlowKeeps rest (selectDone r { s with stack := rest }) := by
  have hrest : rest ∈ selectCallers := mem_stacksBelow h.callers
  cases r with
  | err e => exact selectFails_keeps h.pop.working hrest e
  | ok v => exact selectAnswered_keeps h.pop.working hrest hrest

theorem haltCrcDone_keeps (h : Ending (.r223 :: rest) s) (r : Res) :
    FlowKeeps rest (haltCrcDone r { s with stack := rest }) := by
  cases r with
  | err e => exact h.pop
  | ok v =>
    obtain rfl := h.alone rfl
    have chain : [.r224] ∈ executeCallers := by decide
    exact enterExecute_keeps ((h.pop.working.latchTransceive _ _ _ _ _).push .r224) chain
      (h.selState (by decide)) (.of_transceive rfl (Nat.zero_le 7) (Nat.zero_le 7))

theorem haltDone_keeps (h : Ending (.r224 :: rest) s) (r : Res) :
    FlowKeeps rest (haltDone r { s with stack := rest }) := by
  unfold haltDone
  split <;> exact h.pop

theorem writePhaseDone_keeps (h : Ending (.r248 :: rest) s) (r : Res) :
    FlowKeeps rest (writePhaseDone r { s with stack := rest }) := by
  cases r with
  | err e => exact h.pop
  | ok v =>
    obtain rfl := h.alone rfl
    exact enterMifare_keeps h.pop.working (.head _) (h.selState (by decide)) _ _

theorem mifareCrcDone_keeps (h : Ending (.r250 :: rest) s) (r : Res) :
    FlowKeeps rest (mifareCrcDone r { s with stack := rest }) := by
  cases r with
  | err e => exact h.pop
  | ok v =>
    have hrest : rest ∈ [[], [.r248]] := mem_stacksBelow h.callers
    obtain ⟨chain, hidle⟩ := (by decide : ∀ st ∈ [[], [.r248]], .r251 :: st ∈ executeCallers ∧
      selStateAt .r141 (.r250 :: st) = selStateAt .r141 (.r251 :: st)) _ hrest
    have w := h.pop.working.appendCrcToTxb
    refine enterExecute_keeps (Working.push (w.withReg ?ackbCleared) .r251) chain
      ((h.selState (by simp)).trans hidle) (h.framed (.inr (.head _)))
    case ackbCleared => exact { w.regs.work with ackb := rfl }

theorem mifareDone_keeps (h : Ending (.r251 :: rest) s) (r : Res) :
    FlowKeeps rest (mifareDone r { s with stack := rest }) := by
  unfold mifareDone
  split
  · unfold ackOrNak
    split
    · exact h.pop
    · split <;> exact h.pop
  · split <;> exact h.pop
  · exact h.pop

/-- Every return rule keeps the invariant. -/
theorem resume_keeps {l : Ret} (h : Ending (l :: rest) s) (r : Res) :
    FlowKeeps rest (resume l r { s with stack := rest }) := by
  cases l with
  | r94 => exact frameCrcDone_keeps h r
  | r151 => exact appendCrcDone_keeps h r
  | r152 => exact verifyCrcDone_keeps h r
  | r175 => exact exCrcDone_keeps h r
  | r193 => exact reqaDone_keeps h r
  | r194 => exact wupaDone_keeps h r
  | r195 => exact h.pop
  | r206 => exact probeDone_keeps h r
  | r213 => exact selectCrcDone_keeps h r
  | r214 => exact selectFrameCrcDone_keeps h r
  | r215 => exact selectDone_keeps h r
  | r223 => exact haltCrcDone_keeps h r
  | r224 => exact haltDone_keeps h r
  | r248 => exact writePhaseDone_keeps h r
  | r250 => exact mifareCrcDone_keeps h r
  | r251 => exact mifareDone_keeps h r

end

/-- A result that goes up the return stack leads to a state with the invariant. -/
theorem unwind_inv {rest : List Ret} {s : State} (h : Ending rest s) (r : Res) :
    StateInv (unwind rest r s) := by
  induction rest generalizing r s with
  | nil => exact deliver_inv h.working.regs r
  | cons l rest ih =>
    have hk := resume_keeps h r
    cases hf : resume l r { s with stack := rest } with
    | running u => rw [unwind_running hf]; rw [hf] at hk; exact hk
    | done r' u => rw [unwind_done hf]; rw [hf] at hk; exact ih hk r'

theorem settle_inv {f : Flow} (h : FlowSettles f) : StateInv (settle f) := by
  cases f with
  | running s => exact h
  | done r s => exact unwind_inv h r

end Sys2Proof.Machine
end

section
/-! Every step label keeps the invariant. -/

namespace Sys2Proof.Machine

/-! ## The shared operations -/

section
variable {s : State} (h : StateInv s) (hb : s.seq ≠ .idle)
include h hb

/-- A transaction: a `TransportError` ends the operation, and the continuation starts from a state with
the invariant. -/
theorem onTx_settles {t : Tx} {k : List Byte → State → Flow}
    (hk : ∀ bs, StateInv (s.afterTx t) → FlowSettles (k bs (s.afterTx t))) :
    FlowSettles (onTx t k s) :=
  onTx_ind (P := FlowSettles) (fun bs _ _ => hk bs (h.afterTx hb t))
    (fun _ => (h.afterTx hb t).ending hb)

theorem readThen_settles {a : Byte} {k : Byte → State → Flow}
    (hk : ∀ v, StateInv (s.afterTx (.rd a)) → FlowSettles (k v (s.afterTx (.rd a)))) :
    FlowSettles (readThen a k s) :=
  onTx_settles h hb fun _ => hk _

/-- A read that goes into a register on the way to another label of the same operation. -/
theorem readReg_settles {next : Seq} (hl : next.entry = s.seq.entry) (a : Byte)
    {f : Byte → State → WorkRegs}
    (hf : ∀ v u, WorkFits u.env.now u.reg → WorkFits u.env.now (f v u)) :
    FlowSettles (readThen a (fun v s => .running (goto next { s with reg := f v s })) s) :=
  readThen_settles h hb fun v h' => (h'.withReg hb (hf v _ h'.regs.work)).goto hb hl

/-- A write on the way to another label of the same operation. -/
theorem writeThen_settles {next : Seq} (hl : next.entry = s.seq.entry) (a v : Byte) :
    FlowSettles (writeThen a v next s) :=
  onTx_settles h hb fun _ h' => h'.goto hb hl

/-- A write that ends the operation. -/
theorem writeRet_settles (a v : Byte) (r : State → Value) :
    FlowSettles (onTx (.wr a v) (fun _ s => ret (r s) s) s) :=
  onTx_settles h hb fun _ h' => h'.ending hb

theorem pollEnter_settles {head : Seq} (hl : head.entry = s.seq.entry) :
    FlowSettles (pollEnter head s) := by
  have h' := h.afterNow hb
  exact (h'.withReg hb (r := { s.reg with t0 := s.env.sample })
    { h'.regs.work with time := Nat.le_refl _ }).goto hb hl

/-- A poll read, where completion keeps the invariant (40_transport R127). -/
theorem pollRead_settles {again : Seq} (hl : again.entry = s.seq.entry) (a d f : Byte)
    {completed : State → Flow}
    (hk : ∀ u, StateInv u → u.seq = s.seq → FlowSettles (completed u)) :
    FlowSettles (pollRead a d f again completed s) := by
  refine readThen_settles h hb fun v h' => ?_
  have hv := h'.withReg hb (r := { s.reg with pollv := v }) { h'.regs.work with }
  dsimp only
  split
  · exact hk _ hv rfl
  · split
    · exact hv.ending hb
    · exact hv.goto hb hl

theorem pollTime_settles {head : Seq} (hl : head.entry = s.seq.entry) (deadline : Nat) :
    FlowSettles (pollTime deadline head s) := by
  have h' := h.afterNow hb
  rw [pollTime_eq]
  split
  · exact h'.ending hb
  · exact h'.goto hb hl

end

theorem bulkLabel_entry {c : Config} {len : Nat} {bulk behind e : Seq} (hbulk : bulk.entry = e)
    (hbehind : behind.entry = e) : (bulkLabel c len bulk behind).entry = e := by
  unfold bulkLabel
  split
  · exact hbehind
  · exact hbulk

/-! ## The CRC protocol -/

section
variable {s : State} (h : StateInv s) (hb : s.seq ≠ .idle) (he : s.seq.entry = .r141)
include h hb he

theorem crcMode_settles : FlowSettles (crcMode s) :=
  readReg_settles h hb (by rw [he]; rfl) _ fun _ _ hw => { hw with }

theorem crcReadHigh_settles : FlowSettles (crcReadHigh s) :=
  readReg_settles h hb (by rw [he]; rfl) _ fun _ _ hw => { hw with }

theorem crcReadLow_settles : FlowSettles (crcReadLow s) :=
  readReg_settles h hb (by rw [he]; rfl) _ fun _ _ hw => { hw with }

theorem crcPollRead_settles : FlowSettles (crcPollRead s) :=
  pollRead_settles h hb (by rw [he]; rfl) _ _ _ fun _ hu hs =>
    hu.goto (hs ▸ hb) (by rw [hs, he]; rfl)

end

/-! ## The executor -/

/-- Storing a received frame keeps every buffer's length (42_executor R171). -/
theorem setRecvBytes_working {s : State} (w : Working s) {bs : List Byte}
    (hbs : bs.length = (recvBytes s).length) : Working (setRecvBytes bs s) := by
  unfold setRecvBytes
  split
  next => exact w
  next => exact ⟨{ w.regs with }, w.result⟩
  next htarget =>
    simp only [recvBytes, htarget] at hbs
    exact w.withSel (r := { s.sel with atqa := bs }) { w.regs.select with atqa := hbs.trans w.regs.atqa }
  next htarget =>
    simp only [recvBytes, htarget] at hbs
    exact w.withSel (r := { s.sel with sakb := bs }) { w.regs.select with sakb := hbs.trans w.regs.sakb }
  next htarget =>
    simp only [recvBytes, htarget] at hbs
    exact w.withReg (r := { s.reg with ackb := bs }) { w.regs.work with ackb := hbs.trans w.regs.ackb }
  next idx _ =>
    exact w.withSel (r := { s.sel with buf := overlayAt s.sel.buf (min idx 7) bs })
      { w.regs.select with buf := (overlayAt_length _ _ _).trans w.regs.buf }

theorem setHostOutput_regs {s : State} (h : RegsOk s) (f : HostSide → HostSide) :
    RegsOk (setHostOutput f s) := { h with }

section
variable {s : State} (h : StateInv s) (hb : s.seq ≠ .idle)
include h hb

theorem exStore_inv (d : List Byte) : StateInv (exStore d s) := by
  have hr := setRecvBytes_working (h.working hb)
    (receivedInto_length s.arg.rxAlign (recvBytes s) d)
  refine h.next hb ?_ (setHostOutput_regs hr.regs _)
  constructor <;> simp

/-- The classification, from every label of `execute` (42_executor R173 to R176). -/
theorem exClassify_settles (he : s.seq.entry = .r161) : FlowSettles (exClassify s) := by
  have hchain : s.stack ∈ executeCallers := by
    have hc := h.chain
    rwa [← callersAt_entry, he] at hc
  have hselState : s.sel.state = selStateAt .r141 (.r175 :: s.stack) := by
    have hst := h.selState
    rw [← selStateAt_entry, he] at hst
    simpa [selStateAt] using hst
  unfold exClassify
  split
  · exact h.ending hb
  · split
    · split
      · exact h.ending hb
      · split
        · exact h.ending hb
        · refine callCrc_keeps (rest := []) _ (h.working hb) ?_ hselState fun _ =>
            h.framed (.inl ?_)
          · exact List.mem_append_right _ (List.mem_map_of_mem hchain)
          · rw [← isExchange_entry, he]; rfl
    · exact h.ending hb

end

section
variable {s : State} (h : StateInv s) (hb : s.seq ≠ .idle) (he : s.seq.entry = .r161)
include h hb he

theorem exCommand_settles : FlowSettles (exCommand s) := by
  refine writeThen_settles h hb ?_ _ _
  rw [he]
  split <;> rfl

theorem exStartRead_settles : FlowSettles (exStartRead s) :=
  readReg_settles h hb (by rw [he]; rfl) _ fun _ _ hw => { hw with }

theorem exPollRead_settles : FlowSettles (exPollRead s) :=
  pollRead_settles h hb (by rw [he]; rfl) _ _ _ fun _ hu hs =>
    hu.goto (hs ▸ hb) (by rw [hs, he]; rfl)

/-- Step 9 (42_executor R169). -/
theorem exError_settles : FlowSettles (exError s) := by
  refine readThen_settles h hb fun v h' => ?_
  have hv := h'.withReg hb (r := { s.reg with errsnap := v }) { h'.regs.work with }
  dsimp only
  split
  · exact hv.ending hb
  · split
    · exact hv.goto hb he.symm
    · exact exClassify_settles
        (hv.withReg hb { hv.regs.work with n := Nat.zero_le _, rxlast := Nat.zero_le _ }) hb he

/-- Step 10 (42_executor R170). -/
theorem exLength_settles : FlowSettles (exLength s) := by
  refine readThen_settles h hb fun v h' => ?_
  have hv := h'.withReg hb (r := { s.reg with n := fifoCount s.cfg v })
    { h'.regs.work with n := fifoCount_le h.regs.fields v }
  dsimp only
  split
  · exact hv.ending hb
  · split
    · have hs := exStore_inv hv hb []
      exact hs.goto (by rw [exStore_seq]; exact hb) (by rw [exStore_seq]; exact he.symm)
    · exact hv.goto hb he.symm

/-- Step 11 (42_executor R171). -/
theorem exData_settles : FlowSettles (exData s) :=
  onTx_settles h hb fun d h' =>
    (exStore_inv h' hb d).goto (by rw [exStore_seq]; exact hb) (by rw [exStore_seq]; exact he.symm)

/-- Step 12 (42_executor R172). -/
theorem exControl_settles : FlowSettles (exControl s) := by
  refine readThen_settles h hb fun v h' => ?_
  have hv := h'.withReg hb (r := { s.reg with rxlast := rxLastCount s.cfg v })
    { h'.regs.work with rxlast := rxLastCount_le h.regs.fields v }
  refine exClassify_settles (hv.next hb ?_ (setHostOutput_regs hv.regs _)) hb he
  exact ⟨rfl, rfl, rfl, rfl, rfl, rfl, rfl, by rw [setHostOutput_host]; split <;> rfl⟩

end

/-! ## The collision register and the primitives -/

section
variable {s : State} (h : StateInv s) (hb : s.seq ≠ .idle)
include h hb

/-- A further probe, or the end of `select` (43_select R209 to R211). -/
theorem collisionRead_settles (hs : s.seq = .r209) : FlowSettles (collisionRead s) := by
  have hc : s.stack ∈ selectCallers := by
    have hchain := h.chain
    rwa [hs] at hchain
  refine readThen_settles h hb fun v h' => ?_
  have hext := extendPrefix_working (h'.working hb) (collisionPosition_le h.regs.fields v)
  dsimp only
  split
  next => exact selectFails_keeps hext hc .collision
  next hatt =>
    exact sendProbe_keeps (rest := []) (hext.setSelState .probing) hc rfl
      (Nat.lt_of_le_of_ne hext.regs.att hatt)

theorem rmwRead_settles {next : Seq} (hl : next.entry = s.seq.entry) : FlowSettles (rmwRead next s) :=
  readReg_settles h hb hl _ fun _ _ hw => { hw with }

theorem pollOwnRead_settles (he : s.seq.entry = .r127t) : FlowSettles (pollOwnRead s) :=
  pollRead_settles h hb (by rw [he]; rfl) _ _ _ fun _ hu hs => hu.ending (hs ▸ hb)

/-- Every step of an operation in progress keeps the invariant. -/
theorem stepLabel_settles : FlowSettles (stepLabel s) := by
  unfold stepLabel
  cases hs : s.seq with
  | idle => exact absurd hs hb
  | r141 | r142 | r145 =>
    exact writeThen_settles h hb (by rw [hs]; rfl) _ _
  | r143 => exact writeThen_settles h hb (bulkLabel_entry (by rw [hs]; rfl) (by rw [hs]; rfl)) _ _
  | r144 => exact onTx_settles h hb fun _ h' => h'.goto hb (by rw [afterTx_seq, hs]; rfl)
  | r146 => exact crcMode_settles h hb (by rw [hs]; rfl)
  | r147t => exact pollEnter_settles h hb (by rw [hs]; rfl)
  | r147r => exact crcPollRead_settles h hb (by rw [hs]; rfl)
  | r147n => exact pollTime_settles h hb (by rw [hs]; rfl) _
  | r148h => exact crcReadHigh_settles h hb (by rw [hs]; rfl)
  | r148l => exact crcReadLow_settles h hb (by rw [hs]; rfl)
  | r149 => exact writeRet_settles h hb _ _ fun s => .crc s.reg.crc
  | r161 | r162 | r165 | r167w => exact writeThen_settles h hb (by rw [hs]; rfl) _ _
  | r163 => exact writeThen_settles h hb (bulkLabel_entry (by rw [hs]; rfl) (by rw [hs]; rfl)) _ _
  | r164 => exact onTx_settles h hb fun _ h' => h'.goto hb (by rw [afterTx_seq, hs]; rfl)
  | r166 => exact exCommand_settles h hb (by rw [hs]; rfl)
  | r167r => exact exStartRead_settles h hb (by rw [hs]; rfl)
  | r168t => exact pollEnter_settles h hb (by rw [hs]; rfl)
  | r168r => exact exPollRead_settles h hb (by rw [hs]; rfl)
  | r168n => exact pollTime_settles h hb (by rw [hs]; rfl) _
  | r169 => exact exError_settles h hb (by rw [hs]; rfl)
  | r170 => exact exLength_settles h hb (by rw [hs]; rfl)
  | r171 => exact exData_settles h hb (by rw [hs]; rfl)
  | r172 => exact exControl_settles h hb (by rw [hs]; rfl)
  | r209 => exact collisionRead_settles h hb hs
  | r124r | r125r => exact rmwRead_settles h hb (by rw [hs]; rfl)
  | r124w | r125w => exact writeRet_settles h hb _ _ fun _ => .nothing
  | r127t => exact pollEnter_settles h hb (by rw [hs]; rfl)
  | r127r => exact pollOwnRead_settles h hb (by rw [hs]; rfl)
  | r127n => exact pollTime_settles h hb (by rw [hs]; rfl) _

theorem advance_inv : StateInv (advance s) := settle_inv (stepLabel_settles h hb)

end

end Sys2Proof.Machine
end

section
/-! What the decoder gives is well formed. -/

namespace Sys2Proof

/-- What the decoder answers is a well-formed instruction, where it is one. -/
def Decoded.wf : Decoded → Bool
  | .instr i => i.wf
  | .reject _ => true

theorem Decoded.wf_ite {p : Prop} [Decidable p] {d e : Decoded} (hd : d.wf = true)
    (he : e.wf = true) : (if p then d else e).wf = true := by
  split
  · exact hd
  · exact he

theorem kbOfNvb_le {nvb : Byte} {kb : Nat} (h : kbOfNvb nvb = some kb) : kb ≤ 32 := by
  simp only [kbOfNvb] at h
  split at h
  · cases h; omega
  · cases h

/-- The rows of 30_encoding R81 have no shape of their own. -/
theorem decodeHost_wf (code : Byte) (p : Args) : (decodeHost code p).wf = true := by
  unfold decodeHost
  iterate 13 refine Decoded.wf_ite rfl ?_
  rfl

theorem decodeCommand_wf (c : Config) (v : Byte) : (decodeCommand c v).wf = true := by
  unfold decodeCommand
  iterate 4 refine Decoded.wf_ite rfl ?_
  rfl

/-- A probe has at most 32 known bits, in as many bytes as they take (30_encoding R95, R96). -/
theorem decodeLevel_wf {probe : Nat → List Byte → Instr}
    {sel : Byte → Byte → Byte → Byte → Byte → Instr}
    (hprobe : ∀ kb known, (probe kb known).wf = knownWf kb known)
    (hsel : ∀ b0 b1 b2 b3 bcc, (sel b0 b1 b2 b3 bcc).wf = true) (bytes rest : List Byte) (tx : Nat) :
    (decodeLevel probe sel bytes rest tx).wf = true := by
  unfold decodeLevel
  split
  · rfl
  · split
    · split
      · split
        · exact hsel _ _ _ _ _
        · rfl
      · rfl
    · split
      next kb hkb =>
        split
        next hlen => simp [Decoded.wf, hprobe, knownWf, kbOfNvb_le hkb, hlen.1]
        next => rfl
      next => rfl

/-- Six key bytes and four UID bytes (30_encoding R101). -/
theorem decodeAuth_wf {auth : Byte → List Byte → List Byte → Instr}
    (hauth : ∀ block key tail,
      (auth block key tail).wf = (key.length == 6 && tail.length == 4))
    (bytes rest : List Byte) (tx : Nat) : (decodeAuth auth bytes rest tx).wf = true := by
  unfold decodeAuth
  split
  · split
    next hlen => simp [Decoded.wf, hauth, hlen.1]
    next => rfl
  · rfl

theorem decodeData_wf {make : Byte → List Byte → Instr} {n : Nat}
    (hmake : ∀ addr data, data.length = n → (make addr data).wf = true)
    (bytes rest : List Byte) (tx : Nat) : (decodeData make n bytes rest tx).wf = true := by
  unfold decodeData
  split
  · split
    next hlen => exact hmake _ _ hlen.1
    next => rfl
  · rfl

open Decoded in
theorem decodeFrame_wf (c : Config) (bytes : List Byte) (tx : Nat) :
    (decodeFrame c bytes tx).wf = true := by
  cases bytes with
  | nil => rfl
  | cons b rest =>
    unfold decodeFrame
    dsimp only
    refine wf_ite (wf_ite rfl rfl) (wf_ite (wf_ite rfl rfl) ?_)
    refine wf_ite (decodeLevel_wf (fun _ _ => rfl) (fun _ _ _ _ _ => rfl) _ _ _) ?_
    refine wf_ite (decodeLevel_wf (fun _ _ => rfl) (fun _ _ _ _ _ => rfl) _ _ _) ?_
    refine wf_ite (decodeLevel_wf (fun _ _ => rfl) (fun _ _ _ _ _ => rfl) _ _ _) ?_
    refine wf_ite (wf_ite rfl rfl) ?_
    refine wf_ite (decodeAuth_wf (fun _ _ _ => rfl) _ _ _) ?_
    refine wf_ite (decodeAuth_wf (fun _ _ _ => rfl) _ _ _) ?_
    refine wf_ite (decodeData_wf (fun _ _ _ => rfl) _ _ _) ?_
    refine wf_ite (decodeData_wf (fun _ _ hd => beq_iff_eq.2 hd) _ _ _) ?_
    exact wf_ite (decodeData_wf (fun _ _ hd => beq_iff_eq.2 hd) _ _ _) rfl

/-- What the decoder gives is well formed (30_encoding R92 to R102). -/
theorem decode_wf {c : Config} {o : Offer} {i : Instr} (h : decode c o = .instr i) : i.wf = true := by
  have hwf : (decode c o).wf = true := by
    cases o with
    | hostop code ports => exact decodeHost_wf code ports
    | regtx t => cases t <;> rfl
    | pseudo p => cases p <;> rfl
    | pcdcmd v => exact decodeCommand_wf c v
    | frame bytes tx => exact decodeFrame_wf c bytes tx
  rwa [h] at hwf

end Sys2Proof
end

section
/-! Every instruction, issued in a state at rest, leads to a state with the invariant. -/

namespace Sys2Proof.Machine

/-- The registers as an operation with the code `op` finds them, or while it latches its operands
(20_memory R66): nothing nested yet. -/
structure Started (op : Byte) (s : State) : Prop where
  working : Working s
  stack : s.stack = []
  selState : s.sel.state = .idle
  op : s.op = op

theorem latched_started {s : State} (h : StateInv s) (hs : s.seq = .idle) (op : Byte) (ports : Args) :
    Started op (s.latched op ports) :=
  have hrest := h.rest hs
  ⟨⟨{ h.regs with }, rfl⟩, rfl, congrArg SelectRegs.state hrest.sel, rfl⟩

/-- An instruction whose start keeps the invariant. -/
theorem accept_inv {op : Byte} {ports : Args} {start : State → Flow} {s t : State} (h : StateInv s)
    (ht : accept op ports start s = .next t)
    (hstart : ∀ u, Started op u → FlowKeeps [] (start u)) : StateInv t := by
  obtain ⟨hs, rfl⟩ := accept_next ht
  exact land_inv (hstart _ (latched_started h hs op ports))

/-! ## How an operation starts -/

section
variable {op : Byte} {s : State} (h : Started op s)
include h

/-- An operation that ends without a nested one: a refused argument, or a row without a step. -/
theorem Started.ending : Ending [] s := .of_select h.working (.head _)

/-- A row that is one transaction. -/
theorem Started.oneTx (t : Tx) (v : List Byte → Value) :
    FlowKeeps [] (onTx t (fun bs s => ret (v bs) s) s) :=
  onTx_ind (P := FlowKeeps []) (fun _ _ _ => .of_select (h.working.afterTx t) (.head _))
    fun _ => .of_select (h.working.afterTx t) (.head _)

/-- A row that is one bulk transfer, which is not issued for no bytes (40_transport R128). -/
theorem Started.bulkTx (t : Tx) (len : Nat) (empty : Value) (v : List Byte → Value) :
    FlowKeeps [] (if bulkElided s.cfg len then ret empty s
      else onTx t (fun bs s => ret (v bs) s) s) := by
  split
  · exact h.ending
  · exact h.oneTx t v

theorem Started.withTxb (bs : List Byte) : Started op { s with reg := { s.reg with txb := bs } } :=
  ⟨h.working.withReg { h.working.regs.work with }, h.stack, h.selState, h.op⟩

theorem Started.withSel {r : SelectRegs} (fits : SelFits s.cfg r) (hst : r.state = .idle) :
    Started op { s with sel := r } := ⟨h.working.withSel fits, h.stack, hst, h.op⟩

theorem Started.withArg (a : Args) : Started op { s with arg := a } :=
  ⟨⟨{ h.working.regs with }, h.working.result⟩, h.stack, h.selState, h.op⟩

theorem Started.withPrim (p : PrimArgs) : Started op { s with prim := p } :=
  ⟨⟨{ h.working.regs with }, h.working.result⟩, h.stack, h.selState, h.op⟩

theorem Started.withBuffer (bs : List Byte) :
    Started op { s with host := { s.host with buf := bs } } :=
  ⟨⟨{ h.working.regs with }, h.working.result⟩, h.stack, h.selState, h.op⟩

theorem latchExchange_started (cmd w : Byte) (send : List Byte) (target : RecvTarget) (tx rx : Nat)
    (check : Bool) : Started op (latchExchange cmd w send target tx rx check s) :=
  ⟨h.working.latchExchange _ _ _ _ _ _ _, h.stack, h.selState, h.op⟩

theorem clearAtqa_started : Started op (clearAtqa s) :=
  h.withSel { h.working.regs.select with atqa := rfl } h.selState

/-- A level that a frame of its own begins (43_select R201). -/
theorem levelInit_started {level : Nat} (hlevel : level ≤ 2) :
    Started op (levelInit { s with sel := { s.sel with level := level } }) :=
  have hw : Working { s with sel := { s.sel with level := level } } :=
    h.working.withSel { h.working.regs.select with level := hlevel }
  ⟨levelInit_working hw, h.stack, h.selState, h.op⟩

theorem enterCrc_starts (buffer : List Byte) : FlowKeeps [] (enterCrc buffer s) := by
  refine enterCrc_keeps buffer h.working ?chain ?selState ?framed
  case chain => rw [h.stack]; decide
  case selState => rw [h.stack, h.selState]; decide
  case framed => rw [h.stack]; simp

/-- `calculate_crc` for a rule that stands alone on the return stack. -/
theorem callCrc_starts {l : Ret} (hl : l ∈ [.r151, .r152, .r214, .r223]) (buffer : List Byte) :
    FlowKeeps [] (callCrc l buffer s) := by
  have hstack : ([l] ∈ crcCallers ∧ selStateAt .r141 [l] = .idle) ∧ ¬ (.r94 ∈ [l] ∨ .r250 ∈ [l]) :=
    (by decide : ∀ l ∈ [.r151, .r152, .r214, .r223],
      ([l] ∈ crcCallers ∧ selStateAt .r141 [l] = .idle) ∧ ¬ (.r94 ∈ [l] ∨ .r250 ∈ [l])) _ hl
  rw [← h.stack] at hstack
  obtain ⟨⟨chain, hidle⟩, hframe⟩ := hstack
  exact callCrc_keeps buffer h.working chain (h.selState.trans hidle.symm) fun hf => absurd hf hframe

/-- An exchange as latched. -/
theorem enterExecute_starts (hf : Framed s.cfg s.op s.arg) : FlowKeeps [] (enterExecute s) := by
  refine enterExecute_keeps h.working ?chain ?selState hf
  case chain => rw [h.stack]; decide
  case selState => rw [h.stack, h.selState]; decide

/-- A standard frame with CRC on its own (30_encoding R94). -/
theorem startFrame_starts (payload : List Byte) (target : RecvTarget) (check : Bool) :
    FlowKeeps [] (startFrame .r94 payload target check s) := by
  refine startFrame_keeps h.working ?chain ?selState _ _ _
  case chain => rw [h.stack]; decide
  case selState => rw [h.stack, h.selState]; decide

theorem enterMifare_starts (payload : List Byte) (ignoreTimeout : Bool) :
    FlowKeeps [] (enterMifare payload ignoreTimeout s) :=
  enterMifare_keeps h.working (by rw [h.stack]; exact .head _) h.selState _ _

theorem enterWriteBlock_starts (addr : Byte) (data : List Byte) :
    FlowKeeps [] (enterWriteBlock addr data s) := by
  have hdata := h.withArg { s.arg with data := data }
  refine enterMifare_keeps (hdata.working.push .r248) ?_ h.selState _ _
  rw [push_stack, h.stack]
  exact .tail _ (.head _)

/-- The exchange of a short frame on its own (43_select R193, R194). -/
theorem shortFrame_starts (cmd : Byte) : FlowKeeps [] (enterExecute (latchShort cmd (clearAtqa s))) :=
  enterExecute_starts
    (latchExchange_started (clearAtqa_started h) s.cfg.cmdTransceive (s.cfg.irqRx ||| s.cfg.irqIdle)
      [cmd] .atqa 7 0 false)
    (.of_transceive rfl (Nat.le_refl 7) (Nat.zero_le 7))

theorem sendReqa_starts : FlowKeeps [] (sendReqa s) := by
  refine shortExchange_keeps (clearAtqa_started h).working ?_ h.selState _
  rw [clearAtqa_stack, h.stack]
  exact .head _

theorem enterSelect_starts : FlowKeeps [] (enterSelect s) :=
  enterSelect_keeps h.working (by rw [h.stack]; exact .head _) (.head _)

/-- A probe on its own: its known bits are at most 32 (43_select R205). -/
theorem probeFrame_starts {level kb : Nat} {known : List Byte} (hlevel : level ≤ 2)
    (hknown : knownWf kb known = true) : FlowKeeps [] (probeFrame level kb known s) := by
  obtain ⟨_, _, _, hprobes⟩ := h.working.regs.fields
  obtain ⟨w, hstack, hst, hop⟩ := levelInit_started h hlevel
  have hkb : kb ≤ 32 := by
    simp only [knownWf, Bool.and_eq_true, decide_eq_true_eq] at hknown
    exact hknown.1
  refine enterExecute_starts (op := op)
    ⟨latchProbe_working (w.withSel ?known) hprobes, hstack, hst, hop⟩ (latchProbe_framed _)
  case known => exact { w.regs.select with buf := (overlayAt_length _ _ _).trans w.regs.buf, kb := hkb }

/-- A SELECT on its own (43_select R213, R214). -/
theorem selectFrame_starts {level : Nat} (hlevel : level ≤ 2) (candidate : List Byte) :
    FlowKeeps [] (selectFrame level candidate s) := by
  have hinit := levelInit_started h hlevel
  have hl : Ret.r214 ∈ [Ret.r151, .r152, .r214, .r223] := by decide
  refine callCrc_starts (hinit.withSel ?candidate ?idle) hl _
  case candidate =>
    exact { hinit.working.regs.select with
      buf := by rw [List.length_set, overlayAt_length]; exact hinit.working.regs.buf
      kb := Nat.le_refl _ }
  case idle => exact hinit.selState

/-- An exchange through the authentication command of the chip (44_session R242). -/
theorem authExchange_starts (frame : List Byte) :
    FlowKeeps [] (enterExecute
      (latchExchange s.cfg.cmdMfAuthent s.cfg.irqIdle frame .absent 0 0 false s)) :=
  enterExecute_starts
    (latchExchange_started h s.cfg.cmdMfAuthent s.cfg.irqIdle frame .absent 0 0 false)
    ⟨fun _ => ⟨Nat.zero_le _, Nat.zero_le _⟩, fun _ => .inr rfl⟩

theorem startAuthenticate_starts (cmd : Byte) (uid : Uid) (key : List Byte) (block : Byte) :
    FlowKeeps [] (startAuthenticate cmd uid key block s) := by
  unfold startAuthenticate
  split
  · exact authExchange_starts h _
  · exact h.ending

/-- The labels of the primitives: on its own a primitive leaves OP at 0x00 (log 8); `stop_session` is
CLRBITS on Status2 (44_session R246). -/
theorem primitive_starts {l : Seq} (hl : l ∈ [.r124r, .r125r, .r127t]) (p : PrimArgs)
    (hop : op = 0 ∨
      l = .r125r ∧ op = 0x22#8 ∧ p.addr = aStatus2 ∧ p.mask = s.cfg.st2Crypto1On) :
    FlowKeeps [] (.running (goto l { s with prim := p })) := by
  obtain ⟨hidle, hcallers, hexchange, hsel⟩ :=
    (by decide : ∀ l ∈ [.r124r, .r125r, .r127t], l ≠ .idle ∧ callersAt l = [[]] ∧
      isExchange l = false ∧ selStateAt l [] = .idle) l hl
  have hno : ¬ InExchange (goto l { s with prim := p }) := by simp [InExchange, hexchange, h.stack]
  exact {
    regs := { h.working.regs with }
    chain := by simp [hcallers, h.stack]
    selState := by simp [h.stack, hsel, h.selState]
    rest := fun hi => absurd hi hidle
    busy := fun _ => h.working.result
    framing := fun hx => absurd hx hno
    command := fun hx => absurd hx hno
    primitive := fun hp => by
      rcases hop with hop | ⟨rfl, _⟩
      · exact h.op.trans hop
      · simp at hp
    session := fun _ hne => by
      rcases hop with hop | ⟨_, hsession⟩
      · exact absurd (h.op.trans hop) hne
      · exact ⟨h.op.trans hsession.1, hsession.2⟩ }

end

/-! ## The forty instructions -/

/-- Issued with the invariant, a well-formed instruction leads to a state with the invariant. -/
theorem exec_inv {i : Instr} {s t : State} (h : StateInv s) (hwf : i.wf = true)
    (ht : exec i s = .next t) : StateInv t := by
  unfold exec at ht
  cases i with
  | calculateCrc buffer => exact accept_inv h ht fun _ hu => enterCrc_starts hu _
  | execute cmd waitFlags send recv tx rx check =>
    refine accept_inv h ht fun u hu => ?_
    have hcode : u.op ∈ [0x02#8, 0x03#8] := by rw [hu.op]; decide
    exact enterExecute_starts (latchExchange_started (hu.withBuffer _) cmd waitFlags send _ tx rx check)
      ⟨fun hop => absurd hcode hop, fun hop => absurd hu.op hop⟩
  | transceive send recv tx rx check =>
    refine accept_inv h ht fun u hu => ?_
    have hcode : u.op ∈ [0x02#8, 0x03#8] := by rw [hu.op]; decide
    exact enterExecute_starts (latchExchange_started (hu.withBuffer _) _ _ send _ tx rx check)
      ⟨fun hop => absurd hcode hop, fun _ => .inl rfl⟩
  | activate hint specific =>
    refine accept_inv h ht fun u hu => ?_
    split
    · exact sendReqa_starts hu
    · exact hu.ending
  | select hint specific => exact accept_inv h ht fun _ hu => enterSelect_starts hu
  | halt =>
    exact accept_inv h ht fun _ hu => callCrc_starts (l := .r223) (hu.withTxb _) (by decide) _
  | authenticateA uid key block | authenticateB uid key block =>
    exact accept_inv h ht fun _ hu => startAuthenticate_starts hu _ _ _ _
  | stopSession =>
    exact accept_inv h ht fun _ hu =>
      primitive_starts hu (by decide) _ (.inr ⟨rfl, rfl, rfl, rfl⟩)
  | readBlock addr out =>
    refine accept_inv h ht fun u hu => ?_
    split
    · exact hu.ending
    · exact startFrame_starts (hu.withBuffer out) _ _ _
  | writeBlock addr data =>
    refine accept_inv h ht fun u hu => ?_
    split
    · exact hu.ending
    · exact enterWriteBlock_starts hu _ _
  | writePage page data =>
    refine accept_inv h ht fun u hu => ?_
    split
    · exact hu.ending
    · exact enterMifare_starts hu _ _
  | mifareTransceive payload ignoreTimeout =>
    exact accept_inv h ht fun _ hu => enterMifare_starts hu _ _
  | rd addr => exact accept_inv h ht fun _ hu => hu.oneTx _ fun bs => .byte (firstByte bs)
  | rdb addr n => exact accept_inv h ht fun _ hu => hu.bulkTx _ n _ .bytes
  | wr addr v => exact accept_inv h ht fun _ hu => hu.oneTx _ fun _ => .nothing
  | wrb addr bytes => exact accept_inv h ht fun _ hu => hu.bulkTx _ bytes.length _ fun _ => .nothing
  | setbits addr mask | clrbits addr mask | poll addr doneMask failMask deadline =>
    exact accept_inv h ht fun _ hu => primitive_starts hu (by decide) _ (.inl rfl)
  | appendCrc frame =>
    exact accept_inv h ht fun _ hu => callCrc_starts (l := .r151) (hu.withTxb _) (by decide) _
  | verifyCrc r =>
    exact accept_inv h ht fun _ hu => callCrc_starts (hu.withPrim _) (by decide) _
  | cmdIdle | cmdCalcCrc | cmdTransceive | cmdMfAuthent =>
    exact accept_inv h ht fun _ hu => hu.oneTx _ fun _ => .nothing
  | reqa | wupa => exact accept_inv h ht fun _ hu => shortFrame_starts hu _
  | anticollCl1 kb known | anticollCl2 kb known | anticollCl3 kb known =>
    exact accept_inv h ht fun _ hu => probeFrame_starts hu (by decide) hwf
  | selectCl1 | selectCl2 | selectCl3 =>
    exact accept_inv h ht fun _ hu => selectFrame_starts hu (by decide) _
  | hlta => exact accept_inv h ht fun _ hu => startFrame_starts hu _ _ _
  | mfAuthKeyA block key tail | mfAuthKeyB block key tail =>
    exact accept_inv h ht fun _ hu => authExchange_starts hu _
  | mfRead addr => exact accept_inv h ht fun _ hu => startFrame_starts (hu.withBuffer _) _ _ _
  | mfWrite addr data => exact accept_inv h ht fun _ hu => enterWriteBlock_starts hu _ _
  | mfWriteUl page data => exact accept_inv h ht fun _ hu => enterMifare_starts hu _ _

/-- A host code outside the table ends at once (30_encoding R83). -/
theorem refuseCode_inv {s : State} (h : StateInv s) (hs : s.seq = .idle) (code : Byte) :
    StateInv (refuseCode code s) :=
  land_inv (latched_started h hs code { }).ending

/-- Taking an operation from the command port keeps the invariant. -/
theorem takeOffer_inv {o : Offer} {rest : List Offer} {s t : State} (h : StateInv s)
    (hs : s.seq = .idle) (ht : takeOffer o rest s = .next t) : StateInv t := by
  have hport : StateInv { s with host := { s.host with port := rest } } := by
    have ha := h.rest hs
    exact { h with regs := { h.regs with }, rest := fun _ => { ha with } }
  unfold takeOffer at ht
  dsimp only at ht
  split at ht
  next i hd => exact exec_inv hport (decode_wf hd) ht
  next => cases ht; exact refuseCode_inv hport hs _
  next => cases ht

/-- Settles O18: a step of the operation in progress by `advance_inv`, a step at `IDLE` by
`takeOffer_inv`. -/
theorem stepKeepsInv : Obligations.StepKeepsInv := by
  unfold Obligations.StepKeepsInv
  intro s t h ht
  suffices hinv : StateInv t from ⟨hinv, hinv.stack_length_le⟩
  by_cases hb : s.seq = .idle
  · simp only [step, hb, if_true] at ht
    split at ht
    · cases ht; exact h
    · exact takeOffer_inv h hb ht
  · rw [step_busy hb] at ht
    cases ht
    exact advance_inv h hb

end Sys2Proof.Machine
end

section
/-! The transaction of each step label, and the accesses of the register table (10_state R32, R33). -/

namespace Sys2Proof.Machine

/-- The transaction the step at `s` makes; `none` where it takes a time sample. -/
def labelTx (s : State) : Option Tx :=
  match s.seq with
  | .idle | .r147t | .r147n | .r168t | .r168n | .r127t | .r127n => none
  | .r141 | .r149 | .r161 => some (.wr aCommand s.cfg.cmdIdle)
  | .r142 => some (.wr aDivIrq s.cfg.divIrqCrc)
  | .r143 | .r163 => some (.wr aFifoLevel s.cfg.fifoFlush)
  | .r144 => some (.wrb aFifoData s.arg.buffer)
  | .r145 => some (.wr aCommand s.cfg.cmdCalcCrc)
  | .r146 => some (.rd aMode)
  | .r147r => some (.rd aDivIrq)
  | .r148h => some (.rd aCrcResultH)
  | .r148l => some (.rd aCrcResultL)
  | .r162 => some (.wr aComIrq s.cfg.comIrqClear)
  | .r164 => some (.wrb aFifoData s.reg.txb)
  | .r165 => some (.wr aBitFraming (bitFraming s.cfg s.arg.rxAlign s.arg.txLastBits))
  | .r166 => some (.wr aCommand s.arg.cmd)
  | .r167r => some (.rd aBitFraming)
  | .r167w => some (.wr aBitFraming (s.reg.scratch ||| s.cfg.bfStartSend))
  | .r168r => some (.rd aComIrq)
  | .r169 => some (.rd aError)
  | .r170 => some (.rd aFifoLevel)
  | .r171 => some (.rdb aFifoData s.reg.n)
  | .r172 => some (.rd aControl)
  | .r209 => some (.rd aColl)
  | .r124r | .r125r | .r127r => some (.rd s.prim.addr)
  | .r124w => some (.wr s.prim.addr (s.reg.scratch ||| s.prim.mask))
  | .r125w => some (.wr s.prim.addr (s.reg.scratch &&& ~~~s.prim.mask))

/-! ## The history after a step -/

/-- A transaction whose continuation computes without touching the history adds one entry to it. -/
theorem onTx_log {x : Tx} {k : List Byte → State → Flow} {s : State}
    (hk : ∀ bs u, (k bs u).state.log = u.log) :
    (onTx x k s).state.log = .tx x (s.answer x) :: s.log :=
  onTx_ind (P := fun f => f.state.log = .tx x (s.answer x) :: s.log) (fun bs _ _ => hk bs _)
    fun _ => rfl

theorem readThen_log {a : Byte} {k : Byte → State → Flow} {s : State}
    (hk : ∀ v u, (k v u).state.log = u.log) :
    (readThen a k s).state.log = .tx (.rd a) (s.answer (.rd a)) :: s.log :=
  onTx_log fun _ => hk _

theorem writeThen_log {a v : Byte} {next : Seq} {s : State} :
    (writeThen a v next s).state.log = .tx (.wr a v) (s.answer (.wr a v)) :: s.log :=
  onTx_log fun _ _ => rfl

theorem pollRead_log {a d f : Byte} {again : Seq} {completed : State → Flow} {s : State}
    (hk : ∀ u, (completed u).state.log = u.log) :
    (pollRead a d f again completed s).state.log = .tx (.rd a) (s.answer (.rd a)) :: s.log :=
  readThen_log fun v u => by
    dsimp only
    split
    · exact hk _
    · split <;> rfl

theorem pollTime_log {deadline : Nat} {head : Seq} {s : State} :
    (pollTime deadline head s).state.log = .now s.env.sample :: s.log := by
  rw [pollTime_eq]
  split <;> rfl

theorem exError_log (s : State) :
    (exError s).state.log = .tx (.rd aError) (s.answer (.rd aError)) :: s.log :=
  readThen_log fun v u => by
    dsimp only
    split
    · rfl
    · split
      · rfl
      · exact (exClassify_pure _).log

theorem exLength_log (s : State) :
    (exLength s).state.log = .tx (.rd aFifoLevel) (s.answer (.rd aFifoLevel)) :: s.log :=
  readThen_log fun v u => by
    dsimp only
    split
    · rfl
    · split
      · exact exStore_log _ _
      · rfl

theorem collisionRead_log (s : State) :
    (collisionRead s).state.log = .tx (.rd aColl) (s.answer (.rd aColl)) :: s.log :=
  readThen_log fun v u => by
    dsimp only
    split <;> rfl

/-- A step makes the transaction of its label, or takes a time sample (20_memory R62). -/
theorem stepLabel_log {s : State} (hb : s.seq ≠ .idle) :
    (stepLabel s).state.log =
      (match labelTx s with
        | some x => .tx x (s.answer x)
        | none => .now s.env.sample) :: s.log := by
  unfold stepLabel labelTx
  cases hs : s.seq with
  | idle => exact absurd hs hb
  | r141 | r142 | r143 | r145 | r161 | r162 | r163 | r165 | r166 | r167w => exact writeThen_log
  | r144 | r164 | r149 | r124w | r125w => exact onTx_log fun _ _ => rfl
  | r146 | r148h | r148l | r167r | r124r | r125r => exact readThen_log fun _ _ => rfl
  | r147t | r168t | r127t => rfl
  | r147n | r168n | r127n => exact pollTime_log
  | r147r | r168r | r127r => exact pollRead_log fun _ => rfl
  | r169 => exact exError_log s
  | r170 => exact exLength_log s
  | r171 => exact onTx_log fun _ _ => exStore_log _ _
  | r172 => exact readThen_log fun _ _ => (exClassify_pure _).log
  | r209 => exact collisionRead_log s

/-- The transaction a step has put into the history is that of its label. -/
theorem labelTx_of_step {s t : State} {x : Tx} {a : Option (List Byte)} (hb : s.seq ≠ .idle)
    (ht : step s = .next t) (hx : t.log = .tx x a :: s.log) : labelTx s = some x := by
  rw [step_busy hb] at ht
  cases ht
  have hlog : (advance s).log = (stepLabel s).state.log := (settle_settled (Pure.refl _)).log
  rw [hlog, stepLabel_log hb] at hx
  have hhead := (List.cons.inj hx).1
  split at hhead
  next y hy => rw [hy, (Event.tx.inj hhead).1]
  next => cases hhead

/-- A step of a named operation is at no label of a primitive on its own. -/
theorem no_primitive_label {s : State} (h : StateInv s)
    (hnamed : s.op = 0 → s.seq ∉ [.r124r, .r124w, .r125r, .r125w, .r127t, .r127r, .r127n]) :
    s.seq ∉ [.r124r, .r124w, .r127t, .r127r, .r127n] := by
  have hsub : ∀ l ∈ [Seq.r124r, .r124w, .r127t, .r127r, .r127n],
      l ∈ [Seq.r124r, .r124w, .r125r, .r125w, .r127t, .r127r, .r127n] := by decide
  exact fun hp => hnamed (h.primitive hp) (hsub _ hp)

/-- `stop_session` is the one named operation at the labels of CLRBITS (44_session R246). -/
theorem session_of_named {s : State} (h : StateInv s)
    (hnamed : s.op = 0 → s.seq ∉ [.r124r, .r124w, .r125r, .r125w, .r127t, .r127r, .r127n])
    (hl : s.seq ∈ [.r125r, .r125w]) :
    s.prim.addr = aStatus2 ∧ s.prim.mask = s.cfg.st2Crypto1On := by
  have hsub : ∀ l ∈ [Seq.r125r, .r125w],
      l ∈ [Seq.r124r, .r124w, .r125r, .r125w, .r127t, .r127r, .r127n] := by decide
  obtain ⟨_, hsession⟩ := h.session hl fun hop => hnamed hop (hsub _ hl)
  exact hsession

/-- Settles O22: the transaction of the step is that of its label, and each label's is one of the
table's; the command of `execute`'s step 6 by `StateInv.command`, the address and the mask of
`stop_session` by `StateInv.session`. -/
theorem accessesOfTheBlock : Obligations.AccessesOfTheBlock := by
  unfold Obligations.AccessesOfTheBlock
  intro s t x a h hb hnamed ht hx
  have hlabel := labelTx_of_step hb ht hx
  have hprim := no_primitive_label h hnamed
  have hsession := session_of_named h hnamed
  unfold labelTx at hlabel
  revert hlabel
  cases hs : s.seq with
  | idle | r147t | r147n | r168t | r168n | r127t | r127n => rintro ⟨⟩
  | r141 | r149 | r161 | r145 =>
    rintro ⟨⟩
    exact .inl ⟨_, rfl, fun _ => by simp⟩
  | r166 =>
    rintro ⟨⟩
    refine .inl ⟨_, rfl, fun hop => ?_⟩
    rcases h.command (.inl (by rw [hs]; rfl)) hop with hc | hc <;> simp [hc]
  | r162 =>
    rintro ⟨⟩
    right
    exact .inl rfl
  | r142 =>
    rintro ⟨⟩
    iterate 2 right
    exact .inl rfl
  | r143 | r163 =>
    rintro ⟨⟩
    iterate 3 right
    exact .inl rfl
  | r165 | r167w =>
    rintro ⟨⟩
    iterate 4 right
    exact .inl ⟨_, rfl⟩
  | r125w =>
    obtain ⟨haddr, hmask⟩ := hsession (by rw [hs]; decide)
    rintro ⟨⟩
    iterate 5 right
    exact .inl ⟨s.reg.scratch, by rw [haddr, hmask]⟩
  | r144 | r164 =>
    rintro ⟨⟩
    iterate 6 right
    exact .inl ⟨_, rfl⟩
  | r171 =>
    rintro ⟨⟩
    iterate 7 right
    exact .inl ⟨_, rfl, h.regs.n⟩
  | r146 | r147r | r148h | r148l | r167r | r168r | r169 | r170 | r172 | r209 =>
    rintro ⟨⟩
    iterate 8 right
    exact ⟨_, rfl, by decide⟩
  | r125r =>
    obtain ⟨haddr, _⟩ := hsession (by rw [hs]; decide)
    rintro ⟨⟩
    iterate 8 right
    exact ⟨_, rfl, by rw [haddr]; decide⟩
  | r124r | r124w | r127r => exact absurd (by rw [hs]; decide) hprim

end Sys2Proof.Machine
end

section
/-! What a step does at the ports: nothing, one transaction or one time sample (20_memory R62), and with
it to the record of the register space. -/

namespace Sys2Proof.Machine

/-- The state `t` is as `s` at the transport and time ports: the same configuration, record of the
register space, environment and history. -/
structure SamePorts (s t : State) : Prop where
  cfg : t.cfg = s.cfg
  chip : t.chip = s.chip
  env : t.env = s.env
  log : t.log = s.log

theorem SamePorts.refl (s : State) : SamePorts s s := ⟨rfl, rfl, rfl, rfl⟩

theorem SamePorts.trans {s u t : State} (h : SamePorts s u) (h' : SamePorts u t) : SamePorts s t :=
  ⟨h'.cfg.trans h.cfg, h'.chip.trans h.chip, h'.env.trans h.env, h'.log.trans h.log⟩

theorem Settled.samePorts {s t : State} (h : Settled s t) : SamePorts s t :=
  ⟨h.cfg, h.chip, h.env, h.log⟩

theorem latched_samePorts (s : State) (op : Byte) (ports : Args) : SamePorts s (s.latched op ports) :=
  ⟨rfl, rfl, rfl, rfl⟩

/-- The same transaction at the same ports leaves the ports the same. -/
theorem SamePorts.afterTx {s u : State} (h : SamePorts s u) (x : Tx) :
    SamePorts (s.afterTx x) (u.afterTx x) := by
  have hanswer : u.answer x = s.answer x := by rw [State.answer, h.env]; rfl
  constructor <;> simp [hanswer, h.cfg, h.chip, h.env, h.log]

theorem SamePorts.afterNow {s u : State} (h : SamePorts s u) : SamePorts s.afterNow u.afterNow := by
  constructor <;> simp [h.cfg, h.chip, h.env, h.log]

/-! ## The ports after a step -/

/-- Everything a step can do at the ports: nothing, which happens at `IDLE` only, or one transaction or
time sample. -/
inductive PortStep (s t : State) : Prop
  | silent (idle : s.seq = .idle) (same : SamePorts s t)
  | tx (x : Tx) (same : SamePorts (s.afterTx x) t)
  | now (same : SamePorts s.afterNow t)

theorem PortStep.of_middle {s m t : State} (hm : Middle s m) (ht : SamePorts m t) : PortStep s t := by
  cases hm with
  | tx x => exact .tx x ht
  | now => exact .now ht

/-- What a step from `u` does at the ports, it does from every `s` at `IDLE` with the same ports. -/
theorem PortStep.of_samePorts {s u t : State} (h : PortStep u t) (hu : SamePorts s u)
    (hidle : s.seq = .idle) : PortStep s t := by
  cases h with
  | silent _ same => exact .silent hidle (hu.trans same)
  | tx x same => exact .tx x ((hu.afterTx x).trans same)
  | now same => exact .now (hu.afterNow.trans same)

theorem exec_ports {i : Instr} {s t : State} (h : exec i s = .next t) : PortStep s t := by
  obtain ⟨hidle, op, ports, m, hm, hmt⟩ := exec_next_cases h
  have hlatched := latched_samePorts s op ports
  rcases hm with rfl | hm
  · exact .silent hidle (hlatched.trans hmt.samePorts)
  · exact (PortStep.of_middle hm hmt.samePorts).of_samePorts hlatched hidle

theorem refuseCode_samePorts (code : Byte) (s : State) : SamePorts s (refuseCode code s) :=
  ⟨rfl, rfl, rfl, rfl⟩

/-- Taking an offer touches the command port alone, then issues it. -/
theorem takeOffer_ports {o : Offer} {rest : List Offer} {s t : State} (hidle : s.seq = .idle)
    (h : takeOffer o rest s = .next t) : PortStep s t := by
  have htaken : SamePorts s { s with host := { s.host with port := rest } } := ⟨rfl, rfl, rfl, rfl⟩
  unfold takeOffer at h
  dsimp only at h
  split at h
  next => exact (exec_ports h).of_samePorts htaken hidle
  next => cases h; exact .silent hidle (htaken.trans (refuseCode_samePorts _ _))
  next => cases h

theorem step_ports {s t : State} (h : step s = .next t) : PortStep s t := by
  by_cases hidle : s.seq = .idle
  · simp only [step, hidle, if_true] at h
    split at h
    · cases h; exact .silent hidle (.refl s)
    · exact takeOffer_ports hidle h
  · obtain ⟨m, hm, hmt⟩ := step_busy_cases hidle h
    exact .of_middle hm hmt.samePorts

/-- Settles O20: the event is that of the step's transaction or time sample, and only a step at `IDLE`
has none. -/
theorem oneEventPerStep : Obligations.OneEventPerStep := by
  unfold Obligations.OneEventPerStep
  intro s t h
  cases step_ports h with
  | silent idle same => exact ⟨fun hb => absurd idle hb, fun _ => .inl same.log⟩
  | tx x same => exact ⟨fun _ => ⟨_, same.log⟩, fun _ => .inr ⟨_, same.log⟩⟩
  | now same => exact ⟨fun _ => ⟨_, same.log⟩, fun _ => .inr ⟨_, same.log⟩⟩

/-! ## The record after a transaction -/

/-- A failed transaction puts nothing (log 19). -/
theorem afterTx_chip_failed {s : State} {x : Tx} (h : s.answer x = none) :
    (s.afterTx x).chip = s.chip := by
  simp [h]

theorem afterTx_chip_acknowledged {s : State} {x : Tx} (h : s.answer x ≠ none) :
    (s.afterTx x).chip = s.chip.put s.cfg x := by
  simp [Option.isSome_iff_ne_none.mpr h]

/-- Settles O23: the transaction in the history is the step's own, whose record `afterTx_read_other`
frames; a step that shows no transaction in the history has made none. -/
theorem recordFrame : Obligations.RecordFrame := by
  unfold Obligations.RecordFrame
  intro s t h
  cases step_ports h with
  | silent _ same =>
    refine ⟨fun x a hx => ?_, fun _ => same.chip⟩
    rw [same.log] at hx
    exact absurd hx.symm (List.cons_ne_self _ _)
  | tx y same =>
    have hlog : t.log = .tx y (s.answer y) :: s.log := same.log
    constructor
    · intro x a hx
      obtain ⟨rfl, rfl⟩ : y = x ∧ s.answer y = a := by simpa [hlog] using hx
      rw [same.chip]
      exact ⟨fun _ hk => afterTx_read_other y hk, afterTx_chip_failed, afterTx_chip_acknowledged⟩
    · rintro (hx | ⟨n, hx⟩) <;> simp [hlog] at hx
  | now same =>
    refine ⟨fun x a hx => ?_, fun _ => same.chip⟩
    rw [same.log] at hx
    cases hx

end Sys2Proof.Machine
end

section
/-! The fields of a byte and the bytes of a word: NVB (30_encoding R96), the collision position (R91), the
CRC pair (R106). -/

namespace Sys2Proof

/-- The two nibbles of an NVB lie side by side, so their union is a sum. -/
theorem nvbOf_toNat {kb : Nat} (h : kb ≤ 32) : (nvbOf kb).toNat = (2 + kb / 8) * 16 + kb % 8 := by
  have hlow : kb % 8 < 2 ^ 4 := by omega
  have hlowFit : kb % 8 % 2 ^ 8 = kb % 8 := by omega
  have hhighFit : ((2 + kb / 8) % 2 ^ 8) <<< 4 % 2 ^ 8 = (2 + kb / 8) <<< 4 := by
    simp only [Nat.shiftLeft_eq]; omega
  calc (nvbOf kb).toNat
      = ((2 + kb / 8) % 2 ^ 8) <<< 4 % 2 ^ 8 ||| kb % 8 % 2 ^ 8 := rfl
    _ = (2 + kb / 8) <<< 4 + kb % 8 := by
        rw [hhighFit, hlowFit, Nat.shiftLeft_add_eq_or_of_lt hlow]
    _ = (2 + kb / 8) * 16 + kb % 8 := by rw [Nat.shiftLeft_eq]

/-- The decoder's reading of an NVB, its nibbles taken as quotient and remainder. -/
theorem kbOfNvb_eq (nvb : Byte) : kbOfNvb nvb =
    if 2 ≤ nvb.toNat / 16 ∧ nvb.toNat % 16 ≤ 7 ∧ 8 * (nvb.toNat / 16 - 2) + nvb.toNat % 16 ≤ 32 then
      some (8 * (nvb.toNat / 16 - 2) + nvb.toNat % 16)
    else none := by
  have hwhole : (nvb >>> 4).toNat = nvb.toNat / 16 := Nat.shiftRight_eq_div_pow nvb.toNat 4
  have hextra : (nvb &&& 0x0F#8).toNat = nvb.toNat % 16 :=
    Nat.and_two_pow_sub_one_eq_mod nvb.toNat 4
  simp only [kbOfNvb, hwhole, hextra]

/-- The decoder reads `kb` known bits from their own NVB and from no other byte (30_encoding R96). -/
theorem kbOfNvb_eq_some_iff {nvb : Byte} {kb : Nat} :
    kbOfNvb nvb = some kb ↔ kb ≤ 32 ∧ nvb = nvbOf kb := by
  rw [kbOfNvb_eq, Option.ite_none_right_eq_some, Option.some_inj]
  constructor
  · rintro ⟨⟨hwhole, hextra, hmax⟩, rfl⟩
    refine ⟨hmax, BitVec.eq_of_toNat_eq ?_⟩
    rw [nvbOf_toNat hmax]; omega
  · rintro ⟨hmax, rfl⟩
    rw [nvbOf_toNat hmax]; omega

/-- A probe is never taken for a SELECT frame (30_encoding R96, R97). -/
theorem nvbOf_ne_nvbSelect {kb : Nat} (h : kb ≤ 32) : nvbOf kb ≠ nvbSelect := by
  intro heq
  have hval : (2 + kb / 8) * 16 + kb % 8 = 0x70 := nvbOf_toNat h ▸ congrArg BitVec.toNat heq
  omega

end Sys2Proof

namespace Sys2Proof.Machine

/-- Settles O5: a field under a mask of five bits is at most 31, so both of its readings lie in 1 to 32. -/
theorem collisionPositionMapping : Obligations.CollisionPositionMapping := by
  unfold Obligations.CollisionPositionMapping
  intro c v hmask
  have hfield : (v &&& c.collPosMask).toNat ≤ 31 :=
    (BitVec.toNat_and v c.collPosMask ▸ Nat.and_le_right).trans hmask
  by_cases hzero : (v &&& c.collPosMask).toNat = 0
  · have hpos : collisionPosition c v = 32 := if_pos hzero
    omega
  · have hpos : collisionPosition c v = (v &&& c.collPosMask).toNat := if_neg hzero
    omega

theorem lo8_toNat (w : Word16) : (lo8 w).toNat = w.toNat % 256 := BitVec.toNat_setWidth 8 w

theorem hi8_toNat (w : Word16) : (hi8 w).toNat = w.toNat / 256 := by
  have hquot : (w >>> 8).toNat = w.toNat / 256 := Nat.shiftRight_eq_div_pow w.toNat 8
  rw [hi8, BitVec.toNat_setWidth, hquot]; omega

/-- The two bytes of a CRC lie side by side, so their union is a sum. -/
theorem joinCrc_toNat (hi lo : Byte) : (joinCrc hi lo).toNat = hi.toNat * 256 + lo.toNat := by
  have hlowFit : lo.toNat % 2 ^ 16 = lo.toNat := by omega
  have hhighFit : (hi.toNat % 2 ^ 16) <<< 8 % 2 ^ 16 = hi.toNat <<< 8 := by
    simp only [Nat.shiftLeft_eq]; omega
  calc (joinCrc hi lo).toNat
      = (hi.toNat % 2 ^ 16) <<< 8 % 2 ^ 16 ||| lo.toNat % 2 ^ 16 := by
        rw [joinCrc, BitVec.toNat_or, BitVec.toNat_shiftLeft, BitVec.toNat_setWidth,
          BitVec.toNat_setWidth]
    _ = hi.toNat <<< 8 + lo.toNat := by
        rw [hhighFit, hlowFit, Nat.shiftLeft_add_eq_or_of_lt lo.isLt]
    _ = hi.toNat * 256 + lo.toNat := by rw [Nat.shiftLeft_eq]

/-- Settles O7: splitting is quotient and remainder by 256, and joining undoes it. -/
theorem crcSplitJoin : Obligations.CrcSplitJoin := by
  unfold Obligations.CrcSplitJoin
  refine ⟨fun w => ⟨lo8_toNat w, hi8_toNat w, rfl, BitVec.eq_of_toNat_eq ?joined⟩,
    fun a b => ⟨joinCrc_toNat b a, BitVec.eq_of_toNat_eq ?low, BitVec.eq_of_toNat_eq ?high⟩⟩
  case joined => rw [joinCrc_toNat, lo8_toNat, hi8_toNat]; omega
  case low => rw [lo8_toNat, joinCrc_toNat]; omega
  case high => rw [hi8_toNat, joinCrc_toNat]; omega

end Sys2Proof.Machine
end

section
/-! The decoder as tables of 30_encoding: a code or a command byte is looked up, and the row says what the
offer decodes to. `decodeHost`, `decodeCommand` and `decodeFrame` are such look-ups by evaluation. -/

namespace Sys2Proof

/-- What stands in the first row with the key `b`, and `other` where there is none. -/
def lookupRow (b : Byte) (other : Decoded) : List (Byte × Decoded) → Decoded
  | [] => other
  | (key, d) :: rows => if b = key then d else lookupRow b other rows

theorem lookupRow_of_mem {b : Byte} {d other : Decoded} {rows : List (Byte × Decoded)}
    (h : (b, d) ∈ rows) (hkeys : (rows.map Prod.fst).Nodup) : lookupRow b other rows = d := by
  induction rows with
  | nil => cases h
  | cons row rows ih =>
    obtain ⟨hnew, hkeys⟩ := List.nodup_cons.1 hkeys
    obtain rfl | h := List.mem_cons.1 h
    · exact if_pos rfl
    · have hne : b ≠ row.1 := fun heq => hnew (heq ▸ List.mem_map_of_mem h)
      exact (if_neg hne).trans (ih h hkeys)

theorem lookupRow_of_notMem {b : Byte} {other : Decoded} {rows : List (Byte × Decoded)}
    (h : b ∉ rows.map Prod.fst) : lookupRow b other rows = other := by
  induction rows with
  | nil => rfl
  | cons row rows ih =>
    exact (if_neg (List.ne_of_not_mem_cons h)).trans (ih (List.not_mem_of_not_mem_cons h))

theorem mem_of_lookupRow_eq_instr {b : Byte} {r : Reject} {i : Instr} {rows : List (Byte × Decoded)}
    (h : lookupRow b (.reject r) rows = .instr i) : (b, .instr i) ∈ rows := by
  induction rows with
  | nil => cases h
  | cons row rows ih =>
    obtain ⟨key, d⟩ := row
    by_cases hb : b = key
    · obtain rfl : d = .instr i := (if_pos hb).symm.trans h
      exact hb ▸ List.mem_cons_self
    · exact List.mem_cons_of_mem _ (ih ((if_neg hb).symm.trans h))

/-- The table of 30_encoding R81. -/
def hostRows (p : Args) : List (Byte × Decoded) :=
  [(0x01#8, .instr (.calculateCrc p.buffer)),
   (0x02#8, .instr (.execute p.cmd p.waitFlags p.send p.recv p.txLastBits p.rxAlign p.checkCrc)),
   (0x03#8, .instr (.transceive p.send p.recv p.txLastBits p.rxAlign p.checkCrc)),
   (0x10#8, .instr (.activate p.uidHint p.specific)),
   (0x11#8, .instr (.select p.uidHint p.specific)),
   (0x12#8, .instr .halt),
   (0x20#8, .instr (.authenticateA p.uid p.key p.block)),
   (0x21#8, .instr (.authenticateB p.uid p.key p.block)),
   (0x22#8, .instr .stopSession),
   (0x30#8, .instr (.readBlock p.addr p.out)),
   (0x31#8, .instr (.writeBlock p.addr p.data)),
   (0x32#8, .instr (.writePage p.page p.data)),
   (0x33#8, .instr (.mifareTransceive p.payload p.ignoreTimeout))]

theorem decodeHost_eq_lookupRow (code : Byte) (p : Args) :
    decodeHost code p = lookupRow code (.reject (.hostCode code)) (hostRows p) := rfl

/-- The table of 30_encoding R86. -/
def commandRows (c : Config) : List (Byte × Decoded) :=
  [(c.cmdIdle, .instr .cmdIdle), (c.cmdCalcCrc, .instr .cmdCalcCrc),
   (c.cmdTransceive, .instr .cmdTransceive), (c.cmdMfAuthent, .instr .cmdMfAuthent)]

theorem decodeCommand_eq_lookupRow (c : Config) (v : Byte) :
    decodeCommand c v = lookupRow v (.reject (.chipCommand v)) (commandRows c) := rfl

/-- A frame whose bytes behind the command byte are fixed (30_encoding R93, R100). -/
def decodeFixed (i : Instr) (operands : List Byte) (lastBits : Nat) (bytes rest : List Byte) (tx : Nat) :
    Decoded :=
  if rest = operands ∧ tx = lastBits then .instr i else .reject (.frameShape bytes tx)

/-- The table of 30_encoding R92: the command byte of a frame, and what the frame decodes to. -/
def frameRows (c : Config) (bytes rest : List Byte) (tx : Nat) : List (Byte × Decoded) :=
  [(piccReqa, decodeFixed .reqa [] 7 bytes rest tx),
   (piccWupa, decodeFixed .wupa [] 7 bytes rest tx),
   (c.selCl1, decodeLevel .anticollCl1 .selectCl1 bytes rest tx),
   (c.selCl2, decodeLevel .anticollCl2 .selectCl2 bytes rest tx),
   (c.selCl3, decodeLevel .anticollCl3 .selectCl3 bytes rest tx),
   (piccHlta, decodeFixed .hlta [c.hltaArg] 0 bytes rest tx),
   (piccAuthA, decodeAuth .mfAuthKeyA bytes rest tx),
   (piccAuthB, decodeAuth .mfAuthKeyB bytes rest tx),
   (piccRead, decodeData (fun a _ => .mfRead a) 0 bytes rest tx),
   (piccWrite, decodeData .mfWrite 16 bytes rest tx),
   (piccWriteUl, decodeData .mfWriteUl 4 bytes rest tx)]

theorem decodeFrame_cons_eq_lookupRow (c : Config) (b : Byte) (rest : List Byte) (tx : Nat) :
    decodeFrame c (b :: rest) tx =
      lookupRow b (.reject (.tagCommand (b :: rest))) (frameRows c (b :: rest) rest tx) := rfl

end Sys2Proof
end

section
/-! The shapes of the frames: which bytes behind the command byte, with which count of valid bits, are an
instruction, and which one. -/

namespace Sys2Proof

theorem knownWf_iff {kb : Nat} {known : List Byte} :
    knownWf kb known = true ↔ kb ≤ 32 ∧ known.length = (kb + 7) / 8 := by
  simp [knownWf]

section
variable {bytes rest : List Byte} {tx : Nat} {i : Instr}

/-- A level has its SELECT frame and the probes with `kb` known bits (30_encoding R95 to R97). -/
theorem decodeLevel_eq_instr_iff {probe : Nat → List Byte → Instr}
    {sel : Byte → Byte → Byte → Byte → Byte → Instr} :
    decodeLevel probe sel bytes rest tx = .instr i ↔
      (∃ b0 b1 b2 b3 bcc, rest = [nvbSelect, b0, b1, b2, b3, bcc] ∧ tx = 0 ∧ sel b0 b1 b2 b3 bcc = i) ∨
      ∃ kb known, knownWf kb known = true ∧ rest = nvbOf kb :: known ∧ tx = kb % 8 ∧
        probe kb known = i := by
  constructor
  · intro h
    unfold decodeLevel at h
    split at h
    · cases h
    · split at h
      next hnvb =>
        split at h
        · split at h
          next htx => exact .inl ⟨_, _, _, _, _, by rw [hnvb], htx, Decoded.instr.inj h⟩
          next => cases h
        · cases h
      next =>
        split at h
        next kb hkb =>
          obtain ⟨hmax, rfl⟩ := kbOfNvb_eq_some_iff.1 hkb
          split at h
          next hlen =>
            exact .inr ⟨kb, _, knownWf_iff.2 ⟨hmax, hlen.1⟩, rfl, hlen.2, Decoded.instr.inj h⟩
          next => cases h
        next => cases h
  · rintro (⟨b0, b1, b2, b3, bcc, rfl, rfl, rfl⟩ | ⟨kb, known, hwf, rfl, rfl, rfl⟩)
    · rfl
    · obtain ⟨hmax, hlen⟩ := knownWf_iff.1 hwf
      simp [decodeLevel, nvbOf_ne_nvbSelect hmax, kbOfNvb_eq_some_iff.2 ⟨hmax, rfl⟩, hlen]

/-- Block, six key bytes, four UID bytes (30_encoding R101). -/
theorem decodeAuth_eq_instr_iff {auth : Byte → List Byte → List Byte → Instr} :
    decodeAuth auth bytes rest tx = .instr i ↔
      ∃ block key tail, (key.length = 6 ∧ tail.length = 4) ∧ rest = block :: (key ++ tail) ∧ tx = 0 ∧
        auth block key tail = i := by
  cases rest with
  | nil => simp [decodeAuth]
  | cons block more =>
    constructor
    · intro h
      simp only [decodeAuth] at h
      split at h
      next hlen =>
        exact ⟨block, more.take 6, more.drop 6, by simp [hlen.1], by simp, hlen.2,
          Decoded.instr.inj h⟩
      next => cases h
    · rintro ⟨block', key, tail, ⟨hkey, htail⟩, hrest, rfl, rfl⟩
      obtain ⟨rfl, rfl⟩ := List.cons.inj hrest
      simp [decodeAuth, ← hkey, htail]

/-- An address and `n` data bytes (30_encoding R102). -/
theorem decodeData_eq_instr_iff {make : Byte → List Byte → Instr} {n : Nat} :
    decodeData make n bytes rest tx = .instr i ↔
      ∃ addr data, data.length = n ∧ rest = addr :: data ∧ tx = 0 ∧ make addr data = i := by
  cases rest with
  | nil => simp [decodeData]
  | cons addr more =>
    constructor
    · intro h
      simp only [decodeData] at h
      split at h
      next hlen => exact ⟨addr, more, hlen.1, rfl, hlen.2, Decoded.instr.inj h⟩
      next => cases h
    · rintro ⟨addr', data, hlen, hrest, rfl, rfl⟩
      obtain ⟨rfl, rfl⟩ := List.cons.inj hrest
      exact if_pos ⟨hlen, rfl⟩

theorem decodeFixed_eq_instr_iff {j : Instr} {operands : List Byte} {lastBits : Nat} :
    decodeFixed j operands lastBits bytes rest tx = .instr i ↔
      rest = operands ∧ tx = lastBits ∧ j = i := by
  unfold decodeFixed
  split
  next h => simp [h]
  next h => simpa using fun hrest htx => absurd ⟨hrest, htx⟩ h

end

end Sys2Proof
end

section
/-! Decoding and encoding undo each other: the obligations on the tables. -/

namespace Sys2Proof

/-! ## A frame is the encoding of what it decodes to -/

section
variable {c : Config} {b : Byte} {bytes rest : List Byte} {tx : Nat} {i : Instr}

theorem encode_of_decodeLevel {probe : Nat → List Byte → Instr}
    {sel : Byte → Byte → Byte → Byte → Byte → Instr}
    (hprobe : ∀ kb known, encode c (probe kb known) = .frame (b :: nvbOf kb :: known) (kb % 8))
    (hsel : ∀ b0 b1 b2 b3 bcc,
      encode c (sel b0 b1 b2 b3 bcc) = .frame [b, nvbSelect, b0, b1, b2, b3, bcc] 0)
    (h : decodeLevel probe sel bytes rest tx = .instr i) : encode c i = .frame (b :: rest) tx := by
  obtain ⟨b0, b1, b2, b3, bcc, rfl, rfl, rfl⟩ | ⟨kb, known, -, rfl, rfl, rfl⟩ :=
    decodeLevel_eq_instr_iff.1 h
  · exact hsel b0 b1 b2 b3 bcc
  · exact hprobe kb known

theorem encode_of_decodeAuth {auth : Byte → List Byte → List Byte → Instr}
    (hauth : ∀ block key tail,
      encode c (auth block key tail) = .frame (b :: block :: (key ++ tail)) 0)
    (h : decodeAuth auth bytes rest tx = .instr i) : encode c i = .frame (b :: rest) tx := by
  obtain ⟨block, key, tail, -, rfl, rfl, rfl⟩ := decodeAuth_eq_instr_iff.1 h
  exact hauth block key tail

theorem encode_of_decodeData {make : Byte → List Byte → Instr} {n : Nat}
    (hmake : ∀ addr data, data.length = n → encode c (make addr data) = .frame (b :: addr :: data) 0)
    (h : decodeData make n bytes rest tx = .instr i) : encode c i = .frame (b :: rest) tx := by
  obtain ⟨addr, data, hlen, rfl, rfl, rfl⟩ := decodeData_eq_instr_iff.1 h
  exact hmake addr data hlen

theorem encode_of_decodeFixed {j : Instr} {operands : List Byte} {lastBits : Nat}
    (hj : encode c j = .frame (b :: operands) lastBits)
    (h : decodeFixed j operands lastBits bytes rest tx = .instr i) :
    encode c i = .frame (b :: rest) tx := by
  obtain ⟨rfl, rfl, rfl⟩ := decodeFixed_eq_instr_iff.1 h
  exact hj

/-- Each of the eleven rows has the frame of its instruction. -/
theorem encode_of_mem_frameRows (h : (b, .instr i) ∈ frameRows c bytes rest tx) :
    encode c i = .frame (b :: rest) tx := by
  simp only [frameRows, List.mem_cons, Prod.mk.injEq, List.not_mem_nil, or_false,
    eq_comm (a := Decoded.instr i)] at h
  obtain ⟨rfl, hreqa⟩ | ⟨rfl, hwupa⟩ | ⟨rfl, hcl1⟩ | ⟨rfl, hcl2⟩ | ⟨rfl, hcl3⟩ | ⟨rfl, hhlta⟩ |
    ⟨rfl, hauthA⟩ | ⟨rfl, hauthB⟩ | ⟨rfl, hread⟩ | ⟨rfl, hwrite⟩ | ⟨rfl, hwriteUl⟩ := h
  · exact encode_of_decodeFixed rfl hreqa
  · exact encode_of_decodeFixed rfl hwupa
  · exact encode_of_decodeLevel (fun _ _ => rfl) (fun _ _ _ _ _ => rfl) hcl1
  · exact encode_of_decodeLevel (fun _ _ => rfl) (fun _ _ _ _ _ => rfl) hcl2
  · exact encode_of_decodeLevel (fun _ _ => rfl) (fun _ _ _ _ _ => rfl) hcl3
  · exact encode_of_decodeFixed rfl hhlta
  · exact encode_of_decodeAuth (fun _ _ _ => rfl) hauthA
  · exact encode_of_decodeAuth (fun _ _ _ => rfl) hauthB
  · exact encode_of_decodeData (fun _ _ hnil => List.length_eq_zero_iff.1 hnil ▸ rfl) hread
  · exact encode_of_decodeData (fun _ _ _ => rfl) hwrite
  · exact encode_of_decodeData (fun _ _ _ => rfl) hwriteUl

end

/-- Settles O3: the row in which the frame was found has the frame of its instruction, and the decoder
gives well-formed instructions only (`decode_wf`). -/
theorem frameIsItsEncoding : Obligations.FrameIsItsEncoding := by
  unfold Obligations.FrameIsItsEncoding
  intro c bytes tx i h
  refine ⟨?_, decode_wf h⟩
  cases bytes with
  | nil => cases h
  | cons b rest => exact encode_of_mem_frameRows (mem_of_lookupRow_eq_instr h)

/-! ## An instruction is the decoding of its encoding -/

section
variable {bytes : List Byte}

theorem decodeLevel_probe {probe : Nat → List Byte → Instr}
    {sel : Byte → Byte → Byte → Byte → Byte → Instr} {kb : Nat} {known : List Byte}
    (h : knownWf kb known = true) :
    decodeLevel probe sel bytes (nvbOf kb :: known) (kb % 8) = .instr (probe kb known) :=
  decodeLevel_eq_instr_iff.2 (.inr ⟨kb, known, h, rfl, rfl, rfl⟩)

theorem decodeAuth_operands {auth : Byte → List Byte → List Byte → Instr} {block : Byte}
    {key tail : List Byte} (h : (key.length == 6 && tail.length == 4) = true) :
    decodeAuth auth bytes (block :: (key ++ tail)) 0 = .instr (auth block key tail) :=
  decodeAuth_eq_instr_iff.2 ⟨block, key, tail, by simpa using h, rfl, rfl, rfl⟩

theorem decodeData_operands {make : Byte → List Byte → Instr} {addr : Byte} {data : List Byte} {n : Nat}
    (h : (data.length == n) = true) :
    decodeData make n bytes (addr :: data) 0 = .instr (make addr data) :=
  decodeData_eq_instr_iff.2 ⟨addr, data, beq_iff_eq.1 h, rfl, rfl, rfl⟩

end

section
variable {c : Config} {i : Instr}

theorem decode_encode_of_mem_commandRows {v : Byte} (hc : c.CommandsDistinct)
    (hi : encode c i = .pcdcmd v) (h : (v, .instr i) ∈ commandRows c) :
    decode c (encode c i) = .instr i := by
  rw [hi, decode, decodeCommand_eq_lookupRow, lookupRow_of_mem h hc]

theorem decode_encode_of_mem_frameRows {b : Byte} {rest : List Byte} {tx : Nat}
    (hc : c.FramesDistinct) (hi : encode c i = .frame (b :: rest) tx)
    (h : (b, .instr i) ∈ frameRows c (b :: rest) rest tx) : decode c (encode c i) = .instr i := by
  rw [hi, decode, decodeFrame_cons_eq_lookupRow, lookupRow_of_mem h hc]

end

/-- Settles O2, format by format: host operations, transactions and pseudo-operations, whose codes and
ports are fixed, by evaluation; chip commands and frames by their row of the table, the only one with its
key. -/
theorem decodeOfEncode : Obligations.DecodeOfEncode := by
  unfold Obligations.DecodeOfEncode
  intro c i hcommands hframes hwf
  cases i
  case calculateCrc | execute | transceive | activate | select | halt | authenticateA | authenticateB
      | stopSession | readBlock | writeBlock | writePage | mifareTransceive => rfl
  case rd | rdb | wr | wrb => rfl
  case setbits | clrbits | poll | appendCrc | verifyCrc => rfl
  case cmdIdle | cmdCalcCrc | cmdTransceive | cmdMfAuthent =>
    exact decode_encode_of_mem_commandRows hcommands rfl (by simp [commandRows])
  case reqa | wupa | hlta =>
    exact decode_encode_of_mem_frameRows hframes rfl (by simp [frameRows, decodeFixed])
  case anticollCl1 | anticollCl2 | anticollCl3 =>
    exact decode_encode_of_mem_frameRows hframes rfl (by simp [frameRows, decodeLevel_probe hwf])
  case selectCl1 | selectCl2 | selectCl3 =>
    exact decode_encode_of_mem_frameRows hframes rfl (by simp [frameRows, decodeLevel])
  case mfAuthKeyA | mfAuthKeyB =>
    exact decode_encode_of_mem_frameRows hframes rfl (by simp [frameRows, decodeAuth_operands hwf])
  case mfRead =>
    exact decode_encode_of_mem_frameRows hframes rfl (by simp [frameRows, decodeData])
  case mfWrite | mfWriteUl =>
    exact decode_encode_of_mem_frameRows hframes rfl (by simp [frameRows, decodeData_operands hwf])

/-! ## The words of the table -/

/-- Settles O1, by evaluation of the closed words. -/
theorem tableWordsDecode : Obligations.TableWordsDecode := by
  unfold Obligations.TableWordsDecode
  decide

end Sys2Proof

namespace Sys2Proof.Machine

theorem decodeHost_of_notMem {code : Byte} (h : code ∉ hostCodes) (p : Args) :
    decodeHost code p = .reject (.hostCode code) := by
  rw [decodeHost_eq_lookupRow, lookupRow_of_notMem h]

/-- An unknown host code is taken from the port and refused in the same step (30_encoding R83). -/
theorem step_hostop_of_notMem {s : State} {code : Byte} {ports : Args} {rest : List Offer}
    (hs : s.seq = .idle) (hport : s.host.port = .hostop code ports :: rest) (hcode : code ∉ hostCodes) :
    step s = .next (refuseCode code { s with host := { s.host with port := rest } }) := by
  simp [step, hs, hport, takeOffer, decode, decodeHost_of_notMem hcode]

/-- Settles O4: the step refuses the code, and an operation refused so is delivered as it was latched. -/
theorem unknownHostCodeRefused : Obligations.UnknownHostCodeRefused := by
  unfold Obligations.UnknownHostCodeRefused
  intro s code ports rest hs hport hcode
  exact ⟨_, step_hostop_of_notMem hs hport hcode, rfl, deliver_atRest _ _, rfl, rfl, rfl, rfl,
    deliver_hostKept _ rfl rfl rfl⟩

end Sys2Proof.Machine
end

section
/-! The chip commands: one write to Command (30_encoding R85, R86). -/

namespace Sys2Proof.Machine

/-- A byte written to a register other than FifoData stands in the record (20_memory R60). -/
theorem ChipSide.put_wr_read_same (c : Config) (ch : ChipSide) {a : Byte} (v : Byte) (h : a ≠ aFifoData) :
    Memory.read (ch.put c (.wr a v)).written a.toNat = some v := by
  rw [ChipSide.put, ChipSide.putByte, if_neg h]
  exact Memory.read_write_same _ _ _

theorem issueCommand_ok {s : State} {rest : List Answer} (h : s.env.answers = wrote :: rest) (v : Byte) :
    issueCommand v s = ret .nothing (s.afterTx (.wr aCommand v)) := by
  rw [issueCommand, onTx_ok (Env.answer_laid h rfl)]

/-- The four rows in one: `command` is the field of the configuration a row writes. -/
theorem accept_issueCommand {s : State} {rest : List Answer} (command : Config → Byte)
    (hs : s.seq = .idle) (ha : s.env.answers = wrote :: rest) :
    ∃ t, accept 0 { } (fun s => issueCommand (command s.cfg) s) s = .next t ∧
      Ends s t (.ok .nothing) [evW aCommand (command s.cfg)] rest ∧ HostKept s t ∧
      Memory.read t.chip.written 1 = some (command s.cfg) := by
  have ha' : (s.latched 0 { }).env.answers = wrote :: rest := ha
  have hrun : accept 0 { } (fun s => issueCommand (command s.cfg) s) s =
      .next (deliver (.ok .nothing) ((s.latched 0 { }).afterTx (.wr aCommand (command s.cfg)))) := by
    rw [accept_idle hs, latched_cfg, issueCommand_ok ha', ret, land_done]
  have hlog := afterTx_log_ok (t := .wr aCommand (command s.cfg)) ha' rfl
  have hchip := afterTx_chip_ok (t := .wr aCommand (command s.cfg)) ha' rfl
  have hanswers := congrArg List.tail ha
  refine ⟨_, hrun, deliver_ends rfl rfl rfl hlog hchip hanswers, deliver_hostKept _ rfl rfl rfl, ?recorded⟩
  case recorded =>
    rw [deliver_chip, hchip]
    exact ChipSide.put_wr_read_same _ _ _ (by decide)

/-- Settles O32, each row by its field of the configuration. -/
theorem chipCommandsComplete : Obligations.ChipCommandsComplete := by
  unfold Obligations.ChipCommandsComplete
  rintro s rest i v hs ha (⟨rfl, rfl⟩ | ⟨rfl, rfl⟩ | ⟨rfl, rfl⟩ | ⟨rfl, rfl⟩)
  · exact accept_issueCommand Config.cmdIdle hs ha
  · exact accept_issueCommand Config.cmdCalcCrc hs ha
  · exact accept_issueCommand Config.cmdTransceive hs ha
  · exact accept_issueCommand Config.cmdMfAuthent hs ha

end Sys2Proof.Machine
end

section
/-! An error no rule catches: the way up the return stack to the result port (60_exceptions R279 to R281),
and the transaction that fails in the middle of an operation (40_transport R126). -/

namespace Sys2Proof.Machine

/-- The rule at the return label `l` does not catch the error `e` (60_exceptions R281). -/
structure Passes (e : ExecError) (l : Ret) : Prop where
  reqa : l ≠ .r193
  collision : e = .collision → l ≠ .r194 ∧ l ≠ .r206
  timeout : e = .timeout → l ≠ .r224 ∧ l ≠ .r251

/-- A rule that does not catch an error ends with it. What it may have done before, SELSTATE back at
`Idle`, does not show in the delivered state. -/
theorem resume_passes {e : ExecError} {l : Ret} (h : Passes e l) (s : State) :
    ∃ u, resume l (.err e) s = .done (.err e) u ∧ deliver (.err e) u = deliver (.err e) s := by
  obtain ⟨hreqa, hcollision, htimeout⟩ := h
  cases l with
  | r193 => exact absurd rfl hreqa
  | r94 | r151 | r152 | r175 | r195 | r213 | r214 | r215 | r223 | r248 | r250 => exact ⟨_, rfl, rfl⟩
  | r194 =>
    cases e with
    | collision => exact absurd rfl (hcollision rfl).1
    | _ => exact ⟨_, rfl, rfl⟩
  | r206 =>
    cases e with
    | collision => exact absurd rfl (hcollision rfl).2
    | _ => exact ⟨_, rfl, rfl⟩
  | r224 =>
    cases e with
    | timeout => exact absurd rfl (htimeout rfl).1
    | _ => exact ⟨_, rfl, rfl⟩
  | r251 =>
    cases e with
    | timeout => exact absurd rfl (htimeout rfl).2
    | _ => exact ⟨_, rfl, rfl⟩

/-- An error no rule on the return stack catches is delivered as it is. -/
theorem unwind_passes {e : ExecError} {l : List Ret} (h : ∀ r ∈ l, Passes e r) (s : State) :
    unwind l (.err e) s = deliver (.err e) s := by
  induction l generalizing s with
  | nil => rfl
  | cons r rest ih =>
    obtain ⟨hr, hrest⟩ := List.forall_mem_cons.mp h
    obtain ⟨u, hu, hdeliver⟩ := resume_passes hr { s with stack := rest }
    rw [unwind_done hu, ih hrest, hdeliver]
    rfl

/-- A `TransportError` is caught in the REQA exchange of `activate` alone. -/
theorem passes_transportError {l : List Ret} (h : .r193 ∉ l) : ∀ r ∈ l, Passes .transportError r :=
  fun _ hr => ⟨fun he => h (he ▸ hr), nofun, nofun⟩

theorem writeThen_failed {a v : Byte} {next : Seq} {s : State} (h : s.answer (.wr a v) = none) :
    writeThen a v next s = .done (.err .transportError) (s.afterTx (.wr a v)) :=
  onTx_failed h

/-- Where its transaction fails, a step label does nothing more (40_transport R126). -/
theorem stepLabel_failed {s : State} {x : Tx} (hx : labelTx s = some x) (ha : s.answer x = none) :
    stepLabel s = .done (.err .transportError) (s.afterTx x) := by
  revert hx
  unfold labelTx stepLabel
  cases s.seq with
  | idle | r147t | r147n | r168t | r168n | r127t | r127n => rintro ⟨⟩
  | r141 | r142 | r143 | r145 | r161 | r162 | r163 | r165 | r166 | r167w =>
    rintro ⟨⟩
    exact writeThen_failed ha
  | _ =>
    rintro ⟨⟩
    exact onTx_failed ha

/-- Where its transaction fails and no rule catches, a step delivers the error. -/
theorem step_failed {s : State} {x : Tx} (hb : s.seq ≠ .idle) (hx : labelTx s = some x)
    (ha : s.answer x = none) (hstack : .r193 ∉ s.stack) :
    step s = .next (deliver (.err .transportError) (s.afterTx x)) := by
  rw [step_busy hb, advance, stepLabel_failed hx ha, settle_done, afterTx_stack,
    unwind_passes (passes_transportError hstack)]

/-- The answer a step shows in the history is that of its transaction. -/
theorem answer_of_step {s t : State} {x : Tx} {a : Option (List Byte)} (ht : step s = .next t)
    (hx : t.log = .tx x a :: s.log) : s.answer x = a := by
  cases step_ports ht with
  | silent _ same => exact absurd (hx.symm.trans same.log) (List.cons_ne_self _ _)
  | tx y same =>
    have hlog : t.log = .tx y (s.answer y) :: s.log := same.log
    obtain ⟨rfl, rfl⟩ : y = x ∧ s.answer y = a := by simpa [hlog] using hx
    rfl
  | now same => rw [same.log] at hx; cases hx

end Sys2Proof.Machine
end

section
/-! The rows that are one transaction, made as they are issued (40_transport R120 to R123, R128;
30_encoding R86). -/

namespace Sys2Proof.Machine

/-- A row that is no host operation shows its result as it is (log 8). -/
theorem portResult_zero (r : Res) : portResult 0 r = r := portResult_other (by decide) r

/-- An empty result is shown as it is by every operation (30_encoding R81). -/
theorem portResult_nothing (op : Byte) : portResult op (.ok .nothing) = .ok .nothing := by
  rw [portResult, ite_self]

/-- Issued in `s`, the instruction is the one transaction `x`, whose answer makes its result. -/
def OneTx (i : Instr) (s : State) (x : Tx) (value : List Byte → Value) : Prop :=
  exec i s = .next (land (onTx x (fun bs u => ret (value bs) u) (s.latched 0 { })))

section
variable {s : State} (hs : s.seq = .idle)
include hs

theorem rd_oneTx (a : Byte) : OneTx (.rd a) s (.rd a) fun bs => .byte (firstByte bs) :=
  accept_idle hs

theorem wr_oneTx (a v : Byte) : OneTx (.wr a v) s (.wr a v) fun _ => .nothing := accept_idle hs

theorem rdb_oneTx (a : Byte) {n : Nat} (hn : bulkElided s.cfg n = false) :
    OneTx (.rdb a n) s (.rdb a n) .bytes := by
  rw [OneTx, exec, execRdb, accept_idle hs, latched_cfg, hn]
  rfl

theorem wrb_oneTx (a : Byte) {bs : List Byte} (hn : bulkElided s.cfg bs.length = false) :
    OneTx (.wrb a bs) s (.wrb a bs) fun _ => .nothing := by
  rw [OneTx, exec, execWrb, accept_idle hs, latched_cfg, hn]
  rfl

theorem cmdIdle_oneTx : OneTx .cmdIdle s (.wr aCommand s.cfg.cmdIdle) fun _ => .nothing :=
  accept_idle hs

theorem cmdCalcCrc_oneTx : OneTx .cmdCalcCrc s (.wr aCommand s.cfg.cmdCalcCrc) fun _ => .nothing :=
  accept_idle hs

theorem cmdTransceive_oneTx :
    OneTx .cmdTransceive s (.wr aCommand s.cfg.cmdTransceive) fun _ => .nothing :=
  accept_idle hs

theorem cmdMfAuthent_oneTx : OneTx .cmdMfAuthent s (.wr aCommand s.cfg.cmdMfAuthent) fun _ => .nothing :=
  accept_idle hs

/-- A bulk read of no bytes ends without a transaction where it is elided (40_transport R128). -/
theorem rdb_elided (a : Byte) {n : Nat} (hn : bulkElided s.cfg n = true) :
    exec (.rdb a n) s = .next (deliver (.ok (.bytes [])) (s.latched 0 { })) := by
  rw [exec, execRdb, accept_idle hs, latched_cfg, hn]
  rfl

/-- And so does a bulk write. -/
theorem wrb_elided (a : Byte) {bs : List Byte} (hn : bulkElided s.cfg bs.length = true) :
    exec (.wrb a bs) s = .next (deliver (.ok .nothing) (s.latched 0 { })) := by
  rw [exec, execWrb, accept_idle hs, latched_cfg, hn]
  rfl

end

section
variable {i : Instr} {s : State} {x : Tx} {value : List Byte → Value} (h : OneTx i s x value)
include h

/-- The transaction returns: its result, its one event, its effect on the record. -/
theorem OneTx.ends_ok {bs : List Byte} {rest : List Answer} (ha : s.env.answers = .ok bs :: rest)
    (hn : bs.length = x.readLen) :
    ∃ t, exec i s = .next t ∧ Ends s t (.ok (value bs)) [.tx x (some bs)] rest ∧ HostKept s t := by
  have ha' : (s.latched 0 { }).env.answers = .ok bs :: rest := ha
  rw [OneTx, onTx_ok (Env.answer_laid ha' hn), ret, land_done] at h
  exact ⟨_, h, deliver_ends rfl rfl (portResult_zero _) (afterTx_log_ok ha' hn)
    (afterTx_chip_ok ha' hn) (congrArg List.tail ha), deliver_hostKept _ rfl rfl rfl⟩

/-- The transaction fails: `TransportError`, nothing recorded (40_transport R126). -/
theorem OneTx.ends_failed {rest : List Answer} (ha : s.env.answers = .transportError :: rest) :
    ∃ t, exec i s = .next t ∧ Ends s t (.err .transportError) [.tx x none] rest ∧ HostKept s t := by
  have hfailed : (s.latched 0 { }).answer x = none := Env.answer_failed ha
  rw [OneTx, onTx_failed hfailed, land_done] at h
  exact ⟨_, h, deliver_ends rfl rfl rfl (congrArg (Event.tx x · :: s.log) hfailed)
    (afterTx_chip_failed hfailed) (congrArg List.tail ha), deliver_hostKept _ rfl rfl rfl⟩

end

/-- Settles O25: in an operation the error reaches the result port past rules that do not catch it; a row
of one transaction has no rule above it. -/
theorem transportErrorEnds : Obligations.TransportErrorEnds := by
  unfold Obligations.TransportErrorEnds
  constructor
  · intro s t x hb hstack ht hlog
    have hfailed := answer_of_step ht hlog
    rw [step_failed hb (labelTx_of_step hb ht hlog) hfailed hstack] at ht
    cases ht
    exact ⟨deliver_atRest _ _, rfl, afterTx_chip_failed hfailed, deliver_hostKept _ rfl rfl rfl⟩
  · intro s i x rest hs ha hrow
    rcases hrow with ⟨a, rfl, rfl⟩ | ⟨a, n, rfl, rfl, hn⟩ | ⟨a, v, rfl, rfl⟩ | ⟨a, bs, rfl, rfl, hn⟩ |
      ⟨rfl, rfl⟩ | ⟨rfl, rfl⟩ | ⟨rfl, rfl⟩ | ⟨rfl, rfl⟩
    · exact (rd_oneTx hs a).ends_failed ha
    · exact (rdb_oneTx hs a hn).ends_failed ha
    · exact (wr_oneTx hs a v).ends_failed ha
    · exact (wrb_oneTx hs a hn).ends_failed ha
    · exact (cmdIdle_oneTx hs).ends_failed ha
    · exact (cmdCalcCrc_oneTx hs).ends_failed ha
    · exact (cmdTransceive_oneTx hs).ends_failed ha
    · exact (cmdMfAuthent_oneTx hs).ends_failed ha

/-- Settles O29: both reads are one transaction that returns. -/
theorem readsComplete : Obligations.ReadsComplete := by
  unfold Obligations.ReadsComplete
  intro s a rest hs
  exact ⟨fun _ ha => (rd_oneTx hs a).ends_ok ha rfl, fun _ hn ha => (rdb_oneTx hs a hn).ends_ok ha rfl⟩

/-- Settles O30: both writes are one transaction that returns; what it puts is the record's. -/
theorem writesComplete : Obligations.WritesComplete := by
  unfold Obligations.WritesComplete
  intro s a rest hs ha
  constructor
  · intro v
    obtain ⟨t, ht, hends, hkept⟩ := (wr_oneTx hs a v).ends_ok ha rfl
    refine ⟨t, ht, hends, hkept, fun hfifo => ?_⟩
    rw [hends.chip]
    exact ChipSide.put_wr_read_same _ _ _ hfifo
  · intro bs hn
    obtain ⟨t, ht, hends, hkept⟩ := (wrb_oneTx hs a hn).ends_ok ha rfl
    refine ⟨t, ht, hends, hkept, ?_⟩
    rintro rfl
    rw [hends.chip]
    exact congrArg ChipSide.fifoLoad (ChipSide.put_fifo bs)

/-- Settles O31: of the two elided transfers nothing is left but their delivery. -/
theorem emptyBulkElided : Obligations.EmptyBulkElided := by
  unfold Obligations.EmptyBulkElided
  intro s a hs hcfg
  have hn : bulkElided s.cfg 0 = true := bulkElided_iff.mpr ⟨rfl, hcfg⟩
  exact ⟨⟨_, rdb_elided hs a hn, deliver_ends rfl rfl rfl rfl rfl rfl, rfl, deliver_hostKept _ rfl rfl rfl⟩,
    ⟨_, wrb_elided hs a hn, deliver_ends rfl rfl rfl rfl rfl rfl, rfl, deliver_hostKept _ rfl rfl rfl⟩⟩

end Sys2Proof.Machine
end

section
/-! SETBITS, CLRBITS and `stop_session`: a read, then a write of the byte read with its bits changed
(40_transport R124, R125, 44_session R246). -/

namespace Sys2Proof.Machine

/-- The state in which a primitive has been issued with its operands and stands at its first label. -/
def primitiveAt (label : Seq) (op : Byte) (p : PrimArgs) (s : State) : State :=
  goto label { s.latched op { } with prim := p }

theorem exec_setbits {s : State} (hs : s.seq = .idle) (a m : Byte) :
    exec (.setbits a m) s = .next (primitiveAt .r124r 0 { s.prim with addr := a, mask := m } s) := by
  rw [exec, execSetbits, accept_idle hs]
  rfl

theorem exec_clrbits {s : State} (hs : s.seq = .idle) (a m : Byte) :
    exec (.clrbits a m) s = .next (primitiveAt .r125r 0 { s.prim with addr := a, mask := m } s) := by
  rw [exec, execClrbits, accept_idle hs]
  rfl

theorem exec_stopSession {s : State} (hs : s.seq = .idle) :
    exec .stopSession s = .next
      (primitiveAt .r125r 0x22#8 { s.prim with addr := aStatus2, mask := s.cfg.st2Crypto1On } s) := by
  rw [exec, execStopSession, accept_idle hs]
  rfl

/-- At the label `read` the byte is read, at the label `write` it is written back as `modify` makes it of
the byte and the mask. -/
structure Modifies (read write : Seq) (modify : Byte → Byte → Byte) : Prop where
  readBusy : read ≠ .idle
  writeBusy : write ≠ .idle
  atRead : ∀ {s : State}, s.seq = read → stepLabel s = rmwRead write s
  atWrite : ∀ {s : State}, s.seq = write →
    stepLabel s =
      onTx (.wr s.prim.addr (modify s.reg.scratch s.prim.mask)) (fun _ u => ret .nothing u) s

theorem setbits_modifies : Modifies .r124r .r124w fun v m => v ||| m where
  readBusy := nofun
  writeBusy := nofun
  atRead hs := by simp only [stepLabel, hs]
  atWrite hs := by simp only [stepLabel, hs, setbitsWrite]

theorem clrbits_modifies : Modifies .r125r .r125w fun v m => v &&& ~~~m where
  readBusy := nofun
  writeBusy := nofun
  atRead hs := by simp only [stepLabel, hs]
  atWrite hs := by simp only [stepLabel, hs, clrbitsWrite]

/-- The state in which the byte that was read waits for its write (log 15). -/
def fetched (write : Seq) (v : Byte) (s : State) : State :=
  goto write { s.afterTx (.rd s.prim.addr) with reg := { s.reg with scratch := v } }

theorem fetched_log {s : State} {v : Byte} {rest : List Answer} (ha : s.env.answers = gave v :: rest)
    (write : Seq) : (fetched write v s).log = evR s.prim.addr v :: s.log :=
  afterTx_log_ok (t := .rd s.prim.addr) ha rfl

theorem fetched_chip {s : State} {v : Byte} {rest : List Answer} (ha : s.env.answers = gave v :: rest)
    (write : Seq) : (fetched write v s).chip = s.chip :=
  afterTx_chip_ok (t := .rd s.prim.addr) ha rfl

section
variable {read write : Seq} {modify : Byte → Byte → Byte} (h : Modifies read write modify)
include h

theorem Modifies.step_read {s : State} {v : Byte} {rest : List Answer} (hs : s.seq = read)
    (ha : s.env.answers = gave v :: rest) : step s = .next (fetched write v s) := by
  rw [step_busy (hs ▸ h.readBusy), advance, h.atRead hs, rmwRead, readThen_ok ha]
  rfl

theorem Modifies.step_write {s : State} {rest : List Answer} (hs : s.seq = write)
    (ha : s.env.answers = wrote :: rest) :
    step s = .next (unwind s.stack (.ok .nothing)
      (s.afterTx (.wr s.prim.addr (modify s.reg.scratch s.prim.mask)))) := by
  rw [step_busy (hs ▸ h.writeBusy), advance, h.atWrite hs, onTx_ok (Env.answer_laid ha rfl)]
  rfl

/-- An instruction that enters at the label of the read completes in two steps, whichever operation it
is. -/
theorem Modifies.completes {i : Instr} {s : State} {op : Byte} {p : PrimArgs} {v : Byte}
    {rest : List Answer} (hi : exec i s = .next (primitiveAt read op p s))
    (ha : s.env.answers = gave v :: wrote :: rest) :
    ∃ t, RunsTo i s 2 t ∧
      Ends s t (.ok .nothing) [evW p.addr (modify v p.mask), evR p.addr v] rest ∧ HostKept s t := by
  have hread := h.step_read (s := primitiveAt read op p s) rfl ha
  have ha' := congrArg List.tail ha
  have hwrite := h.step_write (s := fetched write v (primitiveAt read op p s)) rfl ha'
  refine ⟨_, ⟨_, hi, reaches_succ hread (reaches_succ hwrite (reaches_zero _))⟩,
    deliver_ends rfl rfl (portResult_nothing _) ?log ?chip (congrArg List.tail ha'),
    deliver_hostKept _ rfl rfl rfl⟩
  case log =>
    have hfetched := fetched_log (s := primitiveAt read op p s) ha write
    exact (afterTx_log_ok ha' rfl).trans (congrArg _ hfetched)
  case chip =>
    have hfetched := fetched_chip (s := primitiveAt read op p s) ha write
    exact (afterTx_chip_ok ha' rfl).trans (congrArg (ChipSide.put s.cfg · _) hfetched)

end

/-- Settles O33: each of the three enters at the read of one of the two primitives. -/
theorem readModifyWriteComplete : Obligations.ReadModifyWriteComplete := by
  unfold Obligations.ReadModifyWriteComplete
  rintro s i a v v' rest hs ha (⟨m, ⟨rfl, rfl⟩ | ⟨rfl, rfl⟩⟩ | ⟨rfl, rfl, rfl⟩)
  · exact setbits_modifies.completes (exec_setbits hs a m) ha
  · exact clrbits_modifies.completes (exec_clrbits hs a m) ha
  · exact clrbits_modifies.completes (exec_stopSession hs) ha

end Sys2Proof.Machine
end

section
/-! The poll loop (40_transport R127), in its three places: the CRC unit's (41_crc R147), the executor's
(42_executor R168) and POLL on its own (log 8). -/

namespace Sys2Proof.Machine

/-! ## One step of a poll loop -/

/-- The state the entry to a poll loop leads to: the sample stands in T0. -/
def pollEntered (head : Seq) (s : State) : State :=
  goto head { s.afterNow with reg := { s.reg with t0 := s.env.sample } }

/-- The state a poll read of `v` leaves. -/
def polled (a v : Byte) (s : State) : State :=
  { s.afterTx (.rd a) with reg := { s.reg with pollv := v } }

section
variable {s : State} (hb : s.seq ≠ .idle)
include hb

theorem step_pollEnter {head : Seq} (hl : stepLabel s = pollEnter head s) :
    step s = .next (pollEntered head s) := by
  rw [step_busy hb, advance, hl, pollEnter_eq, settle_running, pollEntered]

/-- Read: completion is tested first, then the failure mask; else the time is sampled next. -/
theorem step_pollRead {a d f v : Byte} {again : Seq} {completed : State → Flow} {rest : List Answer}
    (hl : stepLabel s = pollRead a d f again completed s) (ha : s.env.answers = gave v :: rest)
    (hcompleted : ∀ u, (completed u).state.log = u.log) :
    ∃ t, step s = .next t ∧ t.log = evR a v :: s.log ∧
      (anyBit v d = true → t = settle (completed (polled a v s))) ∧
      (anyBit v d = false → anyBit v f = true → t = unwind s.stack (.err .timeout) (polled a v s)) ∧
      (anyBit v d = false → anyBit v f = false → t = goto again (polled a v s)) := by
  refine ⟨_, step_busy hb, ?log, ?outcomes⟩
  case log =>
    have hanswer : s.answer (.rd a) = some [v] := Env.answer_laid ha rfl
    rw [advance, (settle_settled (Pure.refl _)).log, hl, pollRead_log hcompleted, hanswer]
  case outcomes =>
    rw [advance, hl, pollRead_ok ha]
    dsimp only
    refine ⟨fun hd => ?_, fun hd hf => ?_, fun hd hf => ?_⟩
    · rw [if_pos hd]; rfl
    · rw [hd, if_neg Bool.false_ne_true, if_pos hf]; rfl
    · rw [hd, hf, if_neg Bool.false_ne_true, if_neg Bool.false_ne_true]; rfl

/-- Time: a sample that reaches the deadline is a `Timeout`, an earlier one leads to the next read. -/
theorem step_pollTime {deadline : Nat} {head : Seq} (hl : stepLabel s = pollTime deadline head s) :
    ∃ t, step s = .next t ∧ t.log = .now s.env.sample :: s.log ∧ t.chip = s.chip ∧
      (s.env.sample - s.reg.t0 < deadline → t = goto head s.afterNow) ∧
      (deadline ≤ s.env.sample - s.reg.t0 → t = unwind s.stack (.err .timeout) s.afterNow) := by
  rw [step_busy hb, advance, hl, pollTime_eq]
  split
  case isTrue hlate =>
    have hsettled := unwind_settled s.stack (.err .timeout) s.afterNow
    exact ⟨_, rfl, hsettled.log, hsettled.chip, fun hlt => absurd hlate (Nat.not_le.mpr hlt),
      fun _ => rfl⟩
  case isFalse hearly => exact ⟨_, rfl, rfl, rfl, fun _ => rfl, fun hle => absurd hle hearly⟩

end

/-- Settles O35: the three loops share one read, and differ in their registers and in what completion
leads to. -/
theorem pollReadOrder : Obligations.PollReadOrder := by
  unfold Obligations.PollReadOrder
  rintro s u v rest a d f again ha hloop rfl
  rcases hloop with ⟨hs, rfl, rfl, rfl, rfl⟩ | ⟨hs, rfl, rfl, rfl, rfl⟩ | ⟨hs, rfl, rfl, rfl, rfl⟩
  case inl =>
    have hl : stepLabel s = crcPollRead s := by simp only [stepLabel, hs]
    obtain ⟨t, ht, hlog, hdone, hfail, hagain⟩ := step_pollRead (hs ▸ nofun) hl ha fun _ => rfl
    exact ⟨t, ht, hlog, fun hd _ => hdone hd, fun _ h => absurd (hs.symm.trans h) nofun,
      fun _ h => absurd (hs.symm.trans h) nofun, hfail, hagain⟩
  case inr.inl =>
    have hl : stepLabel s = exPollRead s := by simp only [stepLabel, hs]
    obtain ⟨t, ht, hlog, hdone, hfail, hagain⟩ := step_pollRead (hs ▸ nofun) hl ha fun _ => rfl
    exact ⟨t, ht, hlog, fun _ h => absurd (hs.symm.trans h) nofun, fun hd _ => hdone hd,
      fun _ h => absurd (hs.symm.trans h) nofun, hfail, hagain⟩
  case inr.inr =>
    have hl : stepLabel s = pollOwnRead s := by simp only [stepLabel, hs]
    obtain ⟨t, ht, hlog, hdone, hfail, hagain⟩ := step_pollRead (hs ▸ nofun) hl ha fun _ => rfl
    exact ⟨t, ht, hlog, fun _ h => absurd (hs.symm.trans h) nofun,
      fun _ h => absurd (hs.symm.trans h) nofun, fun hd _ => hdone hd, hfail, hagain⟩

/-- Settles O36: the three loops share one entry and one deadline test. -/
theorem deadlineTest : Obligations.DeadlineTest := by
  unfold Obligations.DeadlineTest
  constructor
  · intro s head hloop
    obtain ⟨hb, hl⟩ : s.seq ≠ .idle ∧ stepLabel s = pollEnter head s := by
      rcases hloop with ⟨hs, rfl⟩ | ⟨hs, rfl⟩ | ⟨hs, rfl⟩ <;>
        simp [stepLabel, hs, crcPollEnter, exPollEnter]
    exact ⟨_, step_pollEnter hb hl, rfl, rfl⟩
  · intro s deadline head hloop
    obtain ⟨hb, hl⟩ : s.seq ≠ .idle ∧ stepLabel s = pollTime deadline head s := by
      rcases hloop with ⟨hs, rfl, rfl⟩ | ⟨hs, rfl, rfl⟩ | ⟨hs, rfl, rfl⟩ <;>
        simp [stepLabel, hs, crcPollTime, exPollTime]
    exact step_pollTime hb hl

end Sys2Proof.Machine
end

section
/-! POLL on its own (40_transport R127, log 8): any number of rounds, then the read that completes. -/

namespace Sys2Proof.Machine

/-- The state in which POLL has been issued. -/
def pollIssued (a d f : Byte) (deadline : Nat) (s : State) : State :=
  primitiveAt .r127t 0
    { s.prim with addr := a, doneMask := d, failMask := f, deadline := deadline } s

theorem exec_poll {s : State} (hs : s.seq = .idle) (a d f : Byte) (deadline : Nat) :
    exec (.poll a d f deadline) s = .next (pollIssued a d f deadline s) := by
  rw [exec, execPoll, accept_idle hs]
  rfl

theorem Env.sample_laid {e : Env} {d : Nat} {more : List Nat} (h : e.ticks = d :: more) :
    e.sample = e.now + d := by
  simp [Env.sample, h]

/-- `t` is the end of a POLL at the value `v`, seen from `s`, which the clock has left `elapsed` behind:
the record and the host's side are as in `s`, the history has grown and `v` stands first in it. -/
structure PollEnds (s t : State) (a v : Byte) (elapsed : Nat) (more : List Nat) (rest : List Answer) :
    Prop where
  atRest : AtRest t
  result : t.host.result = some (.ok .nothing)
  log : ∃ es, t.log = evR a v :: es ++ s.log
  now : t.env.now = s.env.now + elapsed
  answers : t.env.answers = rest
  ticks : t.env.ticks = more
  chip : t.chip = s.chip
  kept : HostKept s t

/-- The same end seen from an earlier state. -/
theorem PollEnds.earlier {s u t : State} {a v : Byte} {d elapsed : Nat} {more : List Nat}
    {rest : List Answer} (h : PollEnds u t a v elapsed more rest) (log : ∃ es, u.log = es ++ s.log)
    (now : u.env.now = s.env.now + d) (chip : u.chip = s.chip) (kept : HostKept s u) :
    PollEnds s t a v (d + elapsed) more rest where
  atRest := h.atRest
  result := h.result
  log := by
    obtain ⟨es, hes⟩ := h.log
    obtain ⟨es', hes'⟩ := log
    exact ⟨es ++ es', by rw [hes, hes', List.cons_append, List.cons_append, List.append_assoc]⟩
  now := by rw [h.now, now, Nat.add_assoc]
  answers := h.answers
  ticks := h.ticks
  chip := h.chip.trans chip
  kept := ⟨h.kept.buf.trans kept.buf, h.kept.outputs.recvLen.trans kept.outputs.recvLen,
    h.kept.outputs.rxLastBits.trans kept.outputs.rxLastBits⟩

/-- The state after a round: a read of `x` that decides nothing, and a time sample. -/
def nextRound (x : Byte) (s : State) : State :=
  goto .r127r (goto .r127n (polled s.prim.addr x s)).afterNow

theorem nextRound_now (x : Byte) {s : State} {d : Nat} {more : List Nat} (h : s.env.ticks = d :: more) :
    (nextRound x s).env.now = s.env.now + d :=
  Env.sample_laid (e := s.env.afterAnswer 1) h

section
variable {s : State} (hs : s.seq = .r127r)
include hs

/-- A value with a done bit ends POLL (40_transport R127). -/
theorem poll_done {v : Byte} {rest : List Answer} (hstack : s.stack = [])
    (ha : s.env.answers = gave v :: rest) (hd : anyBit v s.prim.doneMask = true) :
    ∃ t, Reaches 1 s t ∧ PollEnds s t s.prim.addr v 0 s.env.ticks rest := by
  have hl : stepLabel s = pollOwnRead s := by simp only [stepLabel, hs]
  obtain ⟨t, ht, hlog, hdone, -, -⟩ := step_pollRead (hs ▸ nofun) hl ha fun _ => rfl
  refine ⟨t, reaches_succ ht (reaches_zero t), ?_⟩
  obtain rfl : t = deliver (.ok .nothing) (polled s.prim.addr v s) := by
    rw [hdone hd, ret, settle_done]
    exact congrArg (unwind · _ _) hstack
  exact ⟨deliver_atRest _ _, congrArg some (portResult_nothing _), ⟨[], hlog⟩, rfl, congrArg List.tail ha,
    rfl, afterTx_chip_ok (t := .rd s.prim.addr) ha rfl, deliver_hostKept _ rfl rfl rfl⟩

/-- A value without a done or fail bit inside the deadline leads to the next read. -/
theorem poll_round {x : Byte} {rest : List Answer} {d : Nat} {more : List Nat}
    (ha : s.env.answers = gave x :: rest) (hticks : s.env.ticks = d :: more)
    (hd : anyBit x s.prim.doneMask = false) (hf : anyBit x s.prim.failMask = false)
    (htime : s.env.now + d - s.reg.t0 < s.prim.deadline) : Reaches 2 s (nextRound x s) := by
  have hl : stepLabel s = pollOwnRead s := by simp only [stepLabel, hs]
  obtain ⟨u, hu, -, -, -, hagain⟩ := step_pollRead (hs ▸ nofun) hl ha fun _ => rfl
  obtain rfl := hagain hd hf
  have hearly : (nextRound x s).env.now - s.reg.t0 < s.prim.deadline := by
    rwa [nextRound_now x hticks]
  obtain ⟨w, hw, -, -, hnext, -⟩ :=
    step_pollTime (s := goto .r127n (polled s.prim.addr x s)) nofun rfl
  obtain rfl := hnext hearly
  exact reaches_succ hu (reaches_succ hw (reaches_zero _))

end

/-- The rounds of a POLL, by induction on the values that decide nothing. -/
theorem poll_reaches {v : Byte} {vs : List Byte} {ds more : List Nat} {rest : List Answer} {s : State}
    (hs : s.seq = .r127r) (hstack : s.stack = [])
    (ha : s.env.answers = vs.map (gave ·) ++ gave v :: rest) (hticks : s.env.ticks = ds ++ more)
    (hlen : ds.length = vs.length) (htime : s.env.now + ds.sum - s.reg.t0 < s.prim.deadline)
    (hopen : ∀ x ∈ vs, anyBit x s.prim.doneMask = false ∧ anyBit x s.prim.failMask = false)
    (hd : anyBit v s.prim.doneMask = true) :
    ∃ k t, Reaches k s t ∧ PollEnds s t s.prim.addr v ds.sum more rest := by
  induction vs generalizing s ds with
  | nil =>
    obtain rfl := List.length_eq_zero_iff.mp hlen
    obtain ⟨t, ht, hends⟩ := poll_done hs hstack ha hd
    rw [hticks] at hends
    exact ⟨1, t, ht, hends⟩
  | cons x vs ih =>
    obtain ⟨d, ds, rfl⟩ := List.exists_of_length_succ _ hlen
    obtain ⟨⟨hxd, hxf⟩, hopen⟩ := List.forall_mem_cons.mp hopen
    rw [List.sum_cons] at htime ⊢
    have hround := poll_round hs ha hticks hxd hxf (by omega)
    have hnow := nextRound_now x hticks
    obtain ⟨k, t, ht, hends⟩ := ih (s := nextRound x s) (ds := ds) rfl hstack (congrArg List.tail ha)
      (congrArg List.tail hticks) (Nat.succ.inj hlen)
      (show (nextRound x s).env.now + ds.sum - s.reg.t0 < s.prim.deadline by omega) hopen hd
    refine ⟨2 + k, t, reaches_trans hround ht, hends.earlier ⟨[_, _], rfl⟩ hnow ?_ ⟨rfl, rfl, rfl⟩⟩
    exact afterTx_chip_ok (t := .rd s.prim.addr) ha rfl

/-- Settles O34: the entry samples T0, then the rounds follow. -/
theorem pollCompletes : Obligations.PollCompletes := by
  unfold Obligations.PollCompletes
  intro s a d f v deadline d0 vs ds more rest hs ha hticks hlen htime hopen hd
  have henter := step_pollEnter (s := pollIssued a d f deadline s) nofun rfl
  have hsample : s.env.sample = s.env.now + d0 := Env.sample_laid hticks
  obtain ⟨k, t, ht, hrounds⟩ := poll_reaches (s := pollEntered .r127r (pollIssued a d f deadline s)) rfl rfl
    ha (congrArg List.tail hticks) hlen
    (show s.env.sample + ds.sum - s.env.sample < deadline by omega) hopen hd
  have hends : PollEnds s t a v (d0 + ds.sum) more rest :=
    hrounds.earlier ⟨[_], rfl⟩ hsample rfl ⟨rfl, rfl, rfl⟩
  exact ⟨k + 1, t, ⟨_, exec_poll hs a d f deadline, reaches_succ henter ht⟩, hends.atRest, hends.result,
    hends.log, hends.now.trans (Nat.add_assoc _ _ _).symm, hends.answers, hends.ticks, hends.chip,
    hends.kept⟩

end Sys2Proof.Machine
end

section
/-! The CRC of a buffer, asked for by the host, by `append_crc` and by `verify_crc` (41_crc R140 to R152). -/

namespace Sys2Proof.Machine

/-! ## Issuing it -/

/-- The state in which the operation `op` has been issued and a `calculate_crc` stands at its first step,
whose result goes to `callers`. -/
def crcAt (op : Byte) (callers : List Ret) (buffer : List Byte) (reg : WorkRegs) (prim : PrimArgs)
    (s : State) : State :=
  goto .r141 { s.latched op { buffer := buffer } with stack := callers, reg := reg, prim := prim }

theorem exec_calculateCrc {s : State} (hs : s.seq = .idle) (buffer : List Byte) :
    exec (.calculateCrc buffer) s = .next (crcAt 0x01#8 [] buffer s.reg s.prim s) := by
  rw [exec, execCalculateCrc, accept_idle hs]
  rfl

theorem exec_appendCrc {s : State} (hs : s.seq = .idle) (frame : List Byte) :
    exec (.appendCrc frame) s =
      .next (crcAt 0 [.r151] frame { s.reg with txb := frame } s.prim s) := by
  rw [exec, execAppendCrc, accept_idle hs]
  rfl

theorem exec_verifyCrc {s : State} (hs : s.seq = .idle) (r : List Byte) :
    exec (.verifyCrc r) s =
      .next (crcAt 0 [.r152] (r.take (r.length - 2)) s.reg { s.prim with verify := r } s) := by
  rw [exec, execVerifyCrc, accept_idle hs]
  rfl

/-! ## Taking its result -/

/-- `append_crc` delivers TXB and the CRC behind it (41_crc R151). -/
theorem unwind_appendCrc (v : Value) (m : State) :
    unwind [.r151] (.ok v) m = deliver (.ok (.bytes (m.reg.txb ++ crcBytes m.reg.crc))) m := rfl

/-- What `verify_crc` ends with, given the CRC of all but the last two bytes (41_crc R152). -/
def verifyResult (r : List Byte) (w : Word16) : Res :=
  if verifyVerdict r w then .ok .nothing else .err .crcMismatch

theorem verifyCrcDone_ok (v : Value) (s : State) :
    verifyCrcDone (.ok v) s = .done (verifyResult s.prim.verify s.reg.crc) s := by
  rw [verifyCrcDone, verifyResult]
  split <;> rfl

/-- `verify_crc` delivers its verdict. -/
theorem unwind_verifyCrc (v : Value) (m : State) :
    unwind [.r152] (.ok v) m = deliver (verifyResult m.prim.verify m.reg.crc) m := by
  rw [unwind, resume, verifyCrcDone_ok]
  rfl

theorem crcMatches_append_pair {body : List Byte} {a b : Byte} {w : Word16} :
    crcMatches (body ++ [a, b]) (body ++ [a, b]).length w = true ↔ a = lo8 w ∧ b = hi8 w := by
  simp [crcMatches, List.getD]

/-- Of an array of at least two bytes the last two are compared, low byte first. -/
theorem verifyResult_append_pair (body : List Byte) (a b : Byte) (w : Word16) :
    verifyResult (body ++ [a, b]) w =
      if a = lo8 w ∧ b = hi8 w then .ok .nothing else .err .crcMismatch := by
  rw [verifyResult, verifyVerdict_long w (by simp)]
  exact if_congr crcMatches_append_pair rfl rfl

/-- Of a shorter array the verdict is a free value (log 27). -/
theorem verifyResult_short {r : List Byte} (w : Word16) (h : r.length < 2) :
    verifyResult r w = if Config.shortVerify r w then .ok .nothing else .err .crcMismatch := by
  rw [verifyResult, verifyVerdict_short w h]

/-! ## From the issue to the end -/

/-- The operation that has issued a `calculate_crc` completes with the nine steps and with what the rule
that takes the CRC makes of it. -/
theorem crcAt_completes {i : Instr} {s : State} {op : Byte} {callers : List Ret} {buffer : List Byte}
    {reg : WorkRegs} {prim : PrimArgs} {x : CrcReads} {rest : List Answer} {r : Res}
    (hi : exec i s = .next (crcAt op callers buffer reg prim s)) (hop : op ∉ opsReturningNothing)
    (hd : x.Completes s.cfg) (ha : s.env.answers = crcAnswers s.cfg buffer x ++ rest)
    (hresult : ∀ m, CrcRun (crcAt op callers buffer reg prim s) m x rest →
      unwind callers (.ok (.crc (x.value s.cfg))) m = deliver r m) :
    ∃ t, RunsTo i s ((crcAnswers s.cfg buffer x).length + 1) t ∧
      Ends s t r (crcEvents s.cfg buffer x t.env.now) rest ∧ HostKept s t := by
  obtain ⟨m, hrun, hm⟩ := crc_run (s := crcAt op callers buffer reg prim s) rfl hd ha
  have hend : unwind callers (.ok (.crc (x.value s.cfg))) m = deliver r m := hresult m hm
  have hhost : m.host = { s.host with result := none } := hm.host
  exact ⟨deliver r m, ⟨_, hi, hend ▸ hrun⟩,
    deliver_ends hm.cfg (by rw [hhost]) (portResult_other (hm.op ▸ hop) r) hm.log hm.chip hm.answers,
    deliver_hostKept r (by rw [hhost]) (by rw [hhost]) (by rw [hhost])⟩

/-- A `calculate_crc` leaves its CRC in the register. -/
theorem CrcRun.crc {s m : State} {x : CrcReads} {rest : List Answer} (h : CrcRun s m x rest) :
    m.reg.crc = x.value s.cfg := by rw [h.reg]

/-- It leaves TXB alone. -/
theorem CrcRun.txb {s m : State} {x : CrcReads} {rest : List Answer} (h : CrcRun s m x rest) :
    m.reg.txb = s.reg.txb := by rw [h.reg]

/-- `verify_crc` of any array ends with its verdict. -/
theorem verifyCrc_completes {s : State} {x : CrcReads} {rest : List Answer} (hs : s.seq = .idle)
    (hd : x.Completes s.cfg) {r body : List Byte} (hbody : r.take (r.length - 2) = body)
    (ha : s.env.answers = crcAnswers s.cfg body x ++ rest) :
    ∃ t, RunsTo (.verifyCrc r) s ((crcAnswers s.cfg body x).length + 1) t ∧
      Ends s t (verifyResult r (x.value s.cfg)) (crcEvents s.cfg body x t.env.now) rest ∧
      HostKept s t := by
  subst hbody
  refine crcAt_completes (exec_verifyCrc hs r) (by decide) hd ha fun m hm => ?_
  rw [unwind_verifyCrc, hm.crc, hm.prim]
  rfl

/-! ## The order of the result pair -/

section
variable {c : Config} {x : CrcReads} (horder : c.crcOrder = .highFirstWhenClear)
include horder

/-- At the spec's polarity a clear mode bit means high byte first (41_crc R148). -/
theorem CrcReads.value_of_clear (hbit : x.mode &&& c.modeMsbFirst = 0) :
    x.value c = joinCrc x.high x.low := by
  have hmsb : msbFirst c x.mode = false := bne_eq_false_iff_eq.mpr hbit
  simp [CrcReads.value, assembleCrc, horder, hmsb]

/-- A set mode bit swaps the pair. -/
theorem CrcReads.value_of_set (hbit : x.mode &&& c.modeMsbFirst ≠ 0) :
    x.value c = joinCrc x.low x.high := by
  have hmsb : msbFirst c x.mode = true := bne_iff_ne.mpr hbit
  simp [CrcReads.value, assembleCrc, horder, hmsb]

end

/-! ## The obligations -/

/-- Settles O37: no rule stands above `calculate_crc`, so its CRC is delivered as it is. -/
theorem calculateCrcCompletes : Obligations.CalculateCrcCompletes := by
  unfold Obligations.CalculateCrcCompletes
  intro s buffer x rest hs hd ha
  obtain ⟨t, hrun, hends, hkept⟩ :=
    crcAt_completes (exec_calculateCrc hs buffer) (by decide) hd ha fun m _ => unwind_nil _ m
  refine ⟨t, hrun, hends, hkept, fun horder => ⟨fun hclear => ?_, fun hset => ?_⟩⟩
  · rw [hends.result, CrcReads.value_of_clear horder hclear]
  · rw [hends.result, CrcReads.value_of_set horder hset]

/-- Settles O38: the rule that takes the CRC finds the frame in TXB. -/
theorem appendCrcCompletes : Obligations.AppendCrcCompletes := by
  unfold Obligations.AppendCrcCompletes
  intro s frame x rest hs hd ha
  refine crcAt_completes (exec_appendCrc hs frame) (by decide) hd ha fun m hm => ?_
  rw [unwind_appendCrc, hm.crc, hm.txb]
  rfl

/-- Settles O39: two bytes behind the body are compared; fewer than two leave an empty body. -/
theorem verifyCrcDecides : Obligations.VerifyCrcDecides := by
  unfold Obligations.VerifyCrcDecides
  intro s body x rest hs hd ha
  constructor
  · intro a b
    rw [← verifyResult_append_pair]
    exact verifyCrc_completes hs hd (by simp) ha
  · rintro r hshort rfl
    rw [← verifyResult_short _ hshort]
    exact verifyCrc_completes hs hd (by rw [Nat.sub_eq_zero_of_le hshort.le, List.take_zero]) ha

end Sys2Proof.Machine
end

section
/-! The merge of a received frame into the receive buffer (42_executor R171, 20_memory R57). -/

namespace Sys2Proof.Machine

section
variable {old new : List Byte} {k : Nat}

theorem overlay_getD_of_lt (hfit : new.length ≤ old.length) (hk : k < new.length) :
    (overlay old new).getD k 0 = new.getD k 0 := by
  rw [overlay, List.take_of_length_le hfit, List.getD_append _ _ _ _ hk]

theorem overlay_getD_of_le (hfit : new.length ≤ old.length) (hk : new.length ≤ k) :
    (overlay old new).getD k 0 = old.getD k 0 := by
  rw [overlay, List.take_of_length_le hfit, List.getD_append_right _ _ _ _ hk]
  simp only [List.getD_eq_getElem?_getD, List.getElem?_drop, Nat.add_sub_cancel' hk]

end

/-- A first byte received from bit `rxAlign` on: below it the byte that was there shows. -/
def mergeByte (rxAlign : Nat) (old received : Byte) : Byte :=
  if 0 < rxAlign then
    (old &&& ~~~(0xFF#8 <<< rxAlign)) ||| (received &&& (0xFF#8 <<< rxAlign))
  else received

theorem mergeFirst_cons (rxAlign : Nat) (old : List Byte) (b : Byte) (bs : List Byte) :
    mergeFirst rxAlign old (b :: bs) = mergeByte rxAlign (old.getD 0 0) b :: bs := by
  cases old <;> cases rxAlign <;> rfl

@[simp] theorem mergeFirst_length (rxAlign : Nat) (old d : List Byte) :
    (mergeFirst rxAlign old d).length = d.length := by
  cases d with
  | nil => rfl
  | cons b bs => rw [mergeFirst_cons]; rfl

/-- Bit by bit: the low `rxAlign` bits are the old ones. -/
theorem mergeByte_getLsbD (rxAlign : Nat) (old received : Byte) {j : Nat} (hj : j < 8) :
    (mergeByte rxAlign old received).getLsbD j =
      if j < rxAlign then old.getLsbD j else received.getLsbD j := by
  have hones : ∀ n, n < 8 → (0xFF#8).getLsbD n = true := by decide
  have hmask : (0xFF#8 <<< rxAlign).getLsbD j = !decide (j < rxAlign) := by
    simp only [BitVec.getLsbD_shiftLeft, hj, hones (j - rxAlign) (by omega), decide_true, Bool.true_and,
      Bool.and_true]
  unfold mergeByte
  split
  case isTrue =>
    simp only [BitVec.getLsbD_or, BitVec.getLsbD_and, BitVec.getLsbD_not, hmask, hj]
    by_cases hlow : j < rxAlign <;> simp [hlow]
  case isFalse hzero => rw [if_neg (by omega)]

/-- Settles O11: what lies behind the answer is left by the overlay; of the answer the merge changes the
first byte alone. -/
theorem receiveMerge : Obligations.ReceiveMerge := by
  unfold Obligations.ReceiveMerge
  intro rxAlign old d hfit
  have hfit' : (mergeFirst rxAlign old d).length ≤ old.length := by rwa [mergeFirst_length]
  refine ⟨receivedInto_length _ _ _, fun k hk => ?behind, fun k hpos hk => ?whole, fun hne j hj => ?first⟩
  case behind => exact overlay_getD_of_le hfit' (by rwa [mergeFirst_length])
  case whole =>
    rw [receivedInto, overlay_getD_of_lt hfit' (by rwa [mergeFirst_length])]
    obtain ⟨k, rfl⟩ := Nat.exists_eq_add_of_le' hpos
    cases d with
    | nil => rfl
    | cons b bs => rw [mergeFirst_cons]; rfl
  case first =>
    obtain ⟨b, bs, rfl⟩ := List.exists_cons_of_ne_nil hne
    rw [receivedInto, overlay_getD_of_lt hfit' (by simp), mergeFirst_cons]
    exact mergeByte_getLsbD rxAlign _ _ hj

end Sys2Proof.Machine
end

section
/-! `execute` and `transceive`, issued by the host: what they are latched with, and how they end
(42_executor R160, R177). -/

namespace Sys2Proof.Machine

/-! ## Issuing them -/

/-- The operands an exchange is latched with, whether `execute` named the command and the wait flags or
`transceive` stands for them (42_executor R177). -/
def exchangeArgs (cmd w : Byte) (send : List Byte) (recv : Option (List Byte)) (tx rx : Nat)
    (check : Bool) : Args :=
  { cmd := cmd, waitFlags := w, send := send, recv := recv, txLastBits := tx, rxAlign := rx,
    checkCrc := check }

/-- The state in which the operation `op` has been issued and the exchange with the operands `a` stands at
its first step. -/
def exchangeAt (op : Byte) (a : Args) (s : State) : State :=
  { s.latched op a with
    seq := .r161
    recvTarget := hostTarget a.recv
    reg := { s.reg with txb := a.send }
    host := { s.host with result := none, buf := a.recv.getD s.host.buf } }

/-- Issued in `s`, the instruction is the exchange with the operands `a`, and shows its result as it is
(30_encoding R81). -/
def IssuesExchange (i : Instr) (s : State) (a : Args) : Prop :=
  ∃ op, op ∉ opsReturningNothing ∧ exec i s = .next (exchangeAt op a s)

section
variable {s : State} {i : Instr} {cmd w : Byte} {send : List Byte} {recv : Option (List Byte)}
  {tx rx : Nat} {check : Bool}

/-- At `IDLE` the host's exchange is latched, whatever its operands are. -/
theorem exchangeCall_issued (hs : s.seq = .idle)
    (hi : ExchangeCall s.cfg i cmd w send recv tx rx check) :
    IssuesExchange i s (exchangeArgs cmd w send recv tx rx check) := by
  rcases hi with rfl | ⟨rfl, rfl, rfl⟩
  · exact ⟨0x02#8, by decide, by rw [exec, execExecute, accept_idle hs]; rfl⟩
  · exact ⟨0x03#8, by decide, by rw [exec, execTransceive, accept_idle hs]; rfl⟩

/-- The offer of an exchange is decoded as it was encoded, whatever its operands are. -/
theorem decode_encode_exchangeCall (hi : ExchangeCall s.cfg i cmd w send recv tx rx check) :
    decode s.cfg (encode s.cfg i) = .instr i := by
  rcases hi with rfl | ⟨rfl, -, -⟩ <;> rfl

end

/-- An offer that decodes is taken from the port and issued in the same step (60_exceptions R291). -/
theorem step_decoded {s : State} {o : Offer} {rest : List Offer} {i : Instr} (hs : s.seq = .idle)
    (hport : s.host.port = o :: rest) (hi : decode s.cfg o = .instr i) :
    step s = exec i { s with host := { s.host with port := rest } } := by
  simp [step, hs, hport, takeOffer, hi]

/-- A count masked into a field of three bits (93 U8, log 11). -/
theorem ofNat_and_seven (n : Nat) : BitVec.ofNat 8 n &&& 0x07#8 = BitVec.ofNat 8 (n % 8) := by
  apply BitVec.eq_of_toNat_eq
  rw [ofNat_and_seven_toNat, BitVec.toNat_ofNat]
  omega

/-- Settles O14: both operations are latched as they stand, and step 5 is one write of the framing byte. -/
theorem framingCountsRun : Obligations.FramingCountsRun := by
  unfold Obligations.FramingCountsRun
  constructor
  · intro s i cmd w send recv tx rx check rest hs hi hport
    obtain ⟨op, -, hexec⟩ :=
      exchangeCall_issued (s := { s with host := { s.host with port := rest } }) hs hi
    refine ⟨_, (step_decoded hs hport (decode_encode_exchangeCall hi)).trans hexec, ?_⟩
    cases recv <;> exact ⟨rfl, rfl, rfl, rfl, rfl, rfl, rfl, rfl, rfl, rfl, rfl, rfl, rfl, rfl, rfl⟩
  · intro s v rest hs ha hv
    have hlabel : stepLabel s = writeThen aBitFraming v .r166 s := by
      simp only [stepLabel, hs, exFraming, bitFraming, ofNat_and_seven, hv]
    refine ⟨_, step_busy (hs ▸ nofun), ?_, ?_⟩
    all_goals rw [advance, hlabel, writeThen_ok ha]
    · rfl
    · exact afterTx_log_ok ha rfl

/-! ## A run of one of them -/

/-- `m` is a state of an exchange the host has issued in `s`, after the transactions and samples
`events`; `rest` of the environment's answers is left. -/
structure HostRun (s m : State) (events : List Event) (rest : List Answer) : Prop where
  cfg : m.cfg = s.cfg
  op : m.op ∉ opsReturningNothing
  stack : m.stack = []
  port : m.host.port = s.host.port
  log : m.log = events ++ s.log
  chip : m.chip = chipAfter s.cfg s.chip events
  answers : m.env.answers = rest

section
variable {s m : State} {events : List Event} {rest : List Answer}

/-- Nothing stands above the host's exchange: what it ends with is its result. -/
theorem HostRun.ends (h : HostRun s m events rest) (r : Res) :
    Ends s (deliver r m) r events rest :=
  deliver_ends h.cfg h.port (portResult_other h.op r) h.log h.chip h.answers

/-- One more read. -/
theorem HostRun.read {v : Byte} (h : HostRun s m events (gave v :: rest)) (a : Byte) :
    HostRun s (m.afterTx (.rd a)) (evR a v :: events) rest where
  cfg := h.cfg
  op := h.op
  stack := h.stack
  port := h.port
  log := (afterTx_log_ok (t := .rd a) h.answers rfl).trans (congrArg _ h.log)
  chip := (afterTx_chip_ok (t := .rd a) h.answers rfl).trans h.chip
  answers := congrArg List.tail h.answers

end

/-- The host's buffer is as it was lent, and its outputs are as they were. -/
structure Lent (recv : Option (List Byte)) (s m : State) : Prop where
  buf : m.host.buf = recv.getD s.host.buf
  outputs : Outputs m s.host.recvLen s.host.rxLastBits

/-- What the classification of an answer looks at, where the host has lent the buffer (42_executor R169 to
R172): `got` stands in it. -/
structure Answered (check : Bool) (x : ExReads) (got : List Byte) (m : State) : Prop where
  checkCrc : m.arg.checkCrc = check
  recvTarget : m.recvTarget = .host
  errsnap : m.reg.errsnap = x.error
  n : m.reg.n = x.bytes.length
  rxlast : m.reg.rxlast = rxLastCount m.cfg x.control
  outputs : Outputs m x.bytes.length (rxLastCount m.cfg x.control)
  buf : m.host.buf = got

/-- The same where no buffer was given: no data, nothing handed to the host (42_executor R170). -/
structure Unanswered (x : ExReads) (s m : State) : Prop where
  recvTarget : m.recvTarget = .absent
  errsnap : m.reg.errsnap = x.error
  n : m.reg.n = 0
  rxlast : m.reg.rxlast = 0
  kept : HostKept s m

theorem recvBytes_of_host {s : State} (h : s.recvTarget = .host) : recvBytes s = s.host.buf := by
  rw [recvBytes, h]

theorem recvBytes_of_absent {s : State} (h : s.recvTarget = .absent) : recvBytes s = [] := by
  rw [recvBytes, h]

theorem Answered.present {check : Bool} {x : ExReads} {got : List Byte} {m : State}
    (h : Answered check x got m) : m.recvTarget ≠ .absent := by
  rw [h.recvTarget]; nofun

theorem Answered.recvBytes {check : Bool} {x : ExReads} {got : List Byte} {m : State}
    (h : Answered check x got m) : recvBytes m = got :=
  (recvBytes_of_host h.recvTarget).trans h.buf

section
variable {s : State} {i : Instr} {a : Args} {x : ExReads} {rest : List Answer}
  (hi : IssuesExchange i s a) (hd : anyBit x.poll a.waitFlags = true)
include hi hd

/-- The sending half of the host's exchange (42_executor R161 to R168). -/
theorem IssuesExchange.sent (ha : s.env.answers = sendAnswers s.cfg a.cmd a.send x ++ rest) :
    ∃ m, RunsTo i s ((sendAnswers s.cfg a.cmd a.send x).length + 1) m ∧
      HostRun s m (sendEvents s.cfg a.cmd a.send a.rxAlign a.txLastBits x m.env.now) rest ∧
      Lent a.recv s m ∧ m.seq = .r169 ∧ m.recvTarget = hostTarget a.recv := by
  obtain ⟨op, hop, hexec⟩ := hi
  obtain ⟨m, hrun, h⟩ := send_run (s := exchangeAt op a s) rfl hd ha
  have hhost : m.host = { s.host with result := none, buf := a.recv.getD s.host.buf } := h.host
  exact ⟨m, ⟨_, hexec, hrun⟩,
    ⟨h.cfg, h.op ▸ hop, h.stack, by rw [hhost], h.log, h.chip, h.answers⟩,
    ⟨by rw [hhost], by rw [hhost], by rw [hhost]⟩, h.seq, h.recvTarget⟩

variable (he : (errFlags s.cfg x.error).protocolClass = false)
include he

/-- The host's exchange with a receive buffer, up to its classification (42_executor R161 to R172). -/
theorem IssuesExchange.answered {buf : List Byte} (hbuf : a.recv = some buf)
    (hf : x.Fits s.cfg buf.length)
    (ha : s.env.answers = exchangeAnswers s.cfg a.cmd a.send x ++ rest) :
    ∃ m, RunsTo i s ((exchangeAnswers s.cfg a.cmd a.send x).length + 1) (settle (exClassify m)) ∧
      HostRun s m (exchangeEvents s.cfg a.cmd a.send a.rxAlign a.txLastBits x m.env.now) rest ∧
      Answered a.checkCrc x (receivedInto a.rxAlign buf x.bytes) m := by
  obtain ⟨op, hop, hexec⟩ := hi
  have htarget : (exchangeAt op a s).recvTarget = .host := by rw [exchangeAt, hbuf]; rfl
  have hlent : recvBytes (exchangeAt op a s) = buf := by
    rw [recvBytes_of_host htarget, exchangeAt, hbuf]; rfl
  obtain ⟨m, hrun, h⟩ := exchange_run (s := exchangeAt op a s) rfl hd (by rw [htarget]; nofun) he
    (hlent ▸ hf) ha
  obtain ⟨hcfg, hport, -, hgot, hlen, hlast, hmop, harg, -, hmtarget, hstack, -, hreg, hanswers, hchip,
    hlog⟩ := h
  rw [htarget, if_pos rfl] at hlen hlast
  rw [hlent, setRecvBytes, htarget] at hgot
  exact ⟨m, ⟨_, hexec, hrun⟩, ⟨hcfg, hmop ▸ hop, hstack, hport, hlog, hchip, hanswers⟩,
    ⟨by rw [harg]; rfl, hmtarget.trans htarget, by rw [hreg], by rw [hreg], by rw [hreg, hcfg],
      ⟨hlen, hcfg ▸ hlast⟩, hgot⟩⟩

/-- The host's exchange without one, up to its classification (42_executor R161 to R170). -/
theorem IssuesExchange.unanswered (hnone : a.recv = none)
    (ha : s.env.answers = silentAnswers s.cfg a.cmd a.send x ++ rest) :
    ∃ m, RunsTo i s ((silentAnswers s.cfg a.cmd a.send x).length + 1) (settle (exClassify m)) ∧
      HostRun s m (silentEvents s.cfg a.cmd a.send a.rxAlign a.txLastBits x m.env.now) rest ∧
      Unanswered x s m := by
  obtain ⟨op, hop, hexec⟩ := hi
  have htarget : (exchangeAt op a s).recvTarget = .absent := by rw [exchangeAt, hnone]; rfl
  obtain ⟨m, hrun, h⟩ := silent_run (s := exchangeAt op a s) rfl hd htarget he ha
  have hhost : m.host = { s.host with result := none, buf := a.recv.getD s.host.buf } := h.host
  rw [hnone, Option.getD_none] at hhost
  exact ⟨m, ⟨_, hexec, hrun⟩,
    ⟨h.cfg, h.op ▸ hop, h.stack, by rw [hhost], h.log, h.chip, h.answers⟩,
    ⟨h.recvTarget, by rw [h.reg], by rw [h.reg], by rw [h.reg],
      ⟨by rw [hhost], by rw [hhost], by rw [hhost]⟩⟩⟩

end

end Sys2Proof.Machine
end

section
/-! What the answer of an exchange comes to: the bits of the snapshot, and the classification
(42_executor R169, R173 to R176). -/

namespace Sys2Proof.Machine

/-! ## The bits of the error snapshot -/

theorem anyBit_eq_true_iff {v m : Byte} : anyBit v m = true ↔ v &&& m ≠ 0 := bne_iff_ne

theorem anyBit_eq_false_iff {v m : Byte} : anyBit v m = false ↔ v &&& m = 0 := bne_eq_false_iff_eq

theorem anyBit_or (v m m' : Byte) : anyBit v (m ||| m') = (anyBit v m || anyBit v m') := by
  rw [Bool.eq_iff_iff, Bool.or_eq_true]
  simp only [anyBit_eq_true_iff, BitVec.and_or_distrib_left, ne_eq, ← not_and_or, BitVec.ofNat_eq_ofNat,
    BitVec.or_eq_zero_iff]

/-- The protocol-class booleans are those of one mask (42_executor R169). -/
theorem protocolClass_eq_anyBit (c : Config) (v : Byte) :
    (errFlags c v).protocolClass = anyBit v (protocolMask c) := by
  simp only [ErrFlags.protocolClass, errFlags, protocolMask, anyBit_or]

/-! ## The classification -/

/-- Under CRC check an answer of the wrong shape ends the exchange (42_executor R174). -/
theorem exClassify_misshapen {s : State} (h : (errFlags s.cfg s.reg.errsnap).collision = false)
    (hk : s.arg.checkCrc = true) (hr : s.recvTarget ≠ .absent)
    (hshape : s.reg.n < 2 ∨ s.reg.rxlast ≠ 0) :
    exClassify s =
      .done (if s.reg.n = 1 ∧ s.reg.rxlast = 4 then .err .nack else .err .crcMismatch) s := by
  have hp : recvPresent s = true := bne_iff_ne.mpr hr
  rw [exClassify, h, hk, hp, if_neg Bool.false_ne_true, Bool.and_self, if_pos rfl, if_pos hshape]
  split <;> rfl

/-- What the exchange ends with when `w` is the CRC of all but the last two of the `n` bytes received: they
are compared with it, low byte first (42_executor R175). -/
def crcVerdict (n : Nat) (got : List Byte) (rxlast : Nat) (w : Word16) : Res :=
  if got.getD (n - 2) 0 = lo8 w ∧ got.getD (n - 1) 0 = hi8 w then .ok (.received n got rxlast)
  else .err .crcMismatch

theorem exCrcDone_ok (v : Value) (s : State) :
    exCrcDone (.ok v) s = .done (crcVerdict s.reg.n (recvBytes s) s.reg.rxlast s.reg.crc) s := by
  simp only [exCrcDone, crcVerdict, crcMatches, Bool.and_eq_true, beq_iff_eq]
  split <;> rfl

theorem unwind_exCrcDone (stack : List Ret) (v : Value) (s : State) :
    unwind (.r175 :: stack) (.ok v) s =
      unwind stack (crcVerdict s.reg.n (recvBytes s) s.reg.rxlast s.reg.crc) { s with stack := stack } :=
  unwind_done (exCrcDone_ok v { s with stack := stack })

/-! ## The steps at which an answer is classified -/

/-- The state after the error snapshot (42_executor R169). -/
def snapped (v : Byte) (s : State) : State :=
  { s.afterTx (.rd aError) with reg := { s.reg with errsnap := v } }

/-- The state after the length read (42_executor R170). -/
def sized (v : Byte) (s : State) : State :=
  { s.afterTx (.rd aFifoLevel) with reg := { s.reg with n := fifoCount s.cfg v } }

/-- The state after the count of valid bits (42_executor R172). -/
def counted (v : Byte) (s : State) : State :=
  setHostOutput (fun h => { h with rxLastBits := rxLastCount s.cfg v })
    { s.afterTx (.rd aControl) with reg := { s.reg with rxlast := rxLastCount s.cfg v } }

/-- The host's counts are no part of a receive buffer. -/
theorem recvBytes_setHostOutput {f : HostSide → HostSide} (hf : ∀ h, (f h).buf = h.buf) (s : State) :
    recvBytes (setHostOutput f s) = recvBytes s := by
  obtain ⟨cfg, host, op, arg, prim, target, seq, stack, reg, sel, chip, env, log⟩ := s
  cases target with
  | host => exact hf host
  | _ => rfl

theorem recvBytes_counted (v : Byte) (s : State) : recvBytes (counted v s) = recvBytes s :=
  recvBytes_setHostOutput (f := fun h => { h with rxLastBits := rxLastCount s.cfg v }) (fun _ => rfl) _

section
variable {s : State} {v : Byte} {rest : List Answer}

/-- Step 9 tests the protocol class, then whether there is a buffer to read into (42_executor R169). -/
theorem step_snapshot (hs : s.seq = .r169) (ha : s.env.answers = gave v :: rest) :
    step s = .next (settle
      (if (errFlags s.cfg v).protocolClass then .done (.err .protocolError) (snapped v s)
       else if recvPresent s then .running (goto .r170 (snapped v s))
       else exClassify (exNoRecv (snapped v s)))) := by
  have hlabel : stepLabel s = exError s := by simp only [stepLabel, hs]
  rw [step_busy (hs ▸ nofun), advance, hlabel, exError, readThen_ok ha]
  rfl

/-- Step 10 tests the capacity, then whether there is anything to read (42_executor R170, R171). -/
theorem step_length (hs : s.seq = .r170) (ha : s.env.answers = gave v :: rest) :
    step s = .next (settle
      (if (recvBytes s).length < fifoCount s.cfg v then .done (.err .invalidArgument) (sized v s)
       else if bulkElided s.cfg (fifoCount s.cfg v) then
         .running (goto .r172 (exStore [] (sized v s)))
       else .running (goto .r171 (sized v s)))) := by
  have hlabel : stepLabel s = exLength s := by simp only [stepLabel, hs]
  rw [step_busy (hs ▸ nofun), advance, hlabel, exLength, readThen_ok ha]
  rfl

/-- Step 12 counts the valid bits and goes on to the classification (42_executor R172 to R176). -/
theorem step_control (hs : s.seq = .r172) (ha : s.env.answers = gave v :: rest) :
    step s = .next (settle (exClassify (counted v s))) := by
  have hlabel : stepLabel s = exControl s := by simp only [stepLabel, hs]
  rw [step_busy (hs ▸ nofun), advance, hlabel, exControl, readThen_ok ha]
  rfl

/-- A classification that ends the exchange ends it for every return stack. -/
theorem step_control_done {r : Res} (hs : s.seq = .r172) (ha : s.env.answers = gave v :: rest)
    (hr : exClassify (counted v s) = .done r (counted v s)) :
    step s = .next (unwind s.stack r (counted v s)) := by
  rw [step_control hs ha, hr]
  rfl

theorem step_snapshot_protocolError (hs : s.seq = .r169) (ha : s.env.answers = gave v :: rest)
    (h : (errFlags s.cfg v).protocolClass = true) :
    step s = .next (unwind s.stack (.err .protocolError) (snapped v s)) := by
  rw [step_snapshot hs ha, if_pos h]
  rfl

theorem step_snapshot_present (hs : s.seq = .r169) (ha : s.env.answers = gave v :: rest)
    (h : (errFlags s.cfg v).protocolClass = false) (hr : s.recvTarget ≠ .absent) :
    step s = .next (goto .r170 (snapped v s)) := by
  have hp : recvPresent s = true := bne_iff_ne.mpr hr
  rw [step_snapshot hs ha, h, if_neg Bool.false_ne_true, if_pos hp]
  rfl

/-- Without a buffer a collision is told at the snapshot. -/
theorem step_snapshot_collision (hs : s.seq = .r169) (ha : s.env.answers = gave v :: rest)
    (h : (errFlags s.cfg v).protocolClass = false) (hr : s.recvTarget = .absent)
    (hcoll : (errFlags s.cfg v).collision = true) :
    step s = .next (unwind s.stack (.err .collision) (exNoRecv (snapped v s))) := by
  have hp : recvPresent s = false := bne_eq_false_iff_eq.mpr hr
  rw [step_snapshot hs ha, h, hp, if_neg Bool.false_ne_true, if_neg Bool.false_ne_true,
    exClassify_collision hcoll]
  rfl

theorem step_length_tooSmall (hs : s.seq = .r170) (ha : s.env.answers = gave v :: rest)
    (h : (recvBytes s).length < fifoCount s.cfg v) :
    step s = .next (unwind s.stack (.err .invalidArgument) (sized v s)) := by
  rw [step_length hs ha, if_pos h]
  rfl

theorem step_length_fits (hs : s.seq = .r170) (ha : s.env.answers = gave v :: rest)
    (h : fifoCount s.cfg v ≤ (recvBytes s).length) (hbulk : bulkElided s.cfg (fifoCount s.cfg v) = false) :
    step s = .next (goto .r171 (sized v s)) := by
  rw [step_length hs ha, if_neg (Nat.not_lt.mpr h), hbulk]
  rfl

/-- Where the empty bulk read is elided, no bytes are stored in its place (40_transport R128). -/
theorem step_length_elided (hs : s.seq = .r170) (ha : s.env.answers = gave v :: rest)
    (h : fifoCount s.cfg v ≤ (recvBytes s).length) (hbulk : bulkElided s.cfg (fifoCount s.cfg v) = true) :
    step s = .next (goto .r172 (exStore [] (sized v s))) := by
  rw [step_length hs ha, if_neg (Nat.not_lt.mpr h), if_pos hbulk]
  rfl

end

/-! ## A store of no bytes -/

theorem overlay_of_prefix {old new : List Byte} (h : new <+: old) : overlay old new = old := by
  obtain ⟨behind, rfl⟩ := h
  simp [overlay]

theorem overlayAt_of_prefix {old new : List Byte} {off : Nat} (h : new <+: old.drop off) :
    overlayAt old off new = old := by
  rw [overlayAt, overlay_of_prefix h, List.take_append_drop]

theorem receivedInto_nil (rxAlign : Nat) (old : List Byte) : receivedInto rxAlign old [] = old :=
  overlay_of_prefix old.nil_prefix

/-- The receive window of a probe is the front of BUF from where it starts (10_state R23). -/
theorem window_prefix (buf : List Byte) (idx : Nat) :
    (buf.take 7).drop idx <+: buf.drop (min idx 7) := by
  rw [List.drop_take]
  rcases Nat.le_total idx 7 with hle | hle
  · rw [Nat.min_eq_left hle]
    exact List.take_prefix _ _
  · rw [Nat.sub_eq_zero_of_le hle, List.take_zero]
    exact List.nil_prefix

/-- What a receive buffer holds, put back into it, changes nothing. -/
theorem setRecvBytes_recvBytes (s : State) : setRecvBytes (recvBytes s) s = s := by
  obtain ⟨cfg, host, op, arg, prim, target, seq, stack, reg, sel, chip, env, log⟩ := s
  cases target with
  | window idx => simp only [setRecvBytes, recvBytes, overlayAt_of_prefix (window_prefix sel.buf idx)]
  | _ => rfl

/-- Storing no bytes writes the host's count and nothing else. -/
theorem exStore_nil (s : State) :
    exStore [] s = setHostOutput (fun h => { h with recvLen := s.reg.n }) s := by
  rw [exStore, receivedInto_nil, setRecvBytes_recvBytes]

theorem recvBytes_exStore_nil (s : State) : recvBytes (exStore [] s) = recvBytes s := by
  rw [exStore_nil]
  exact recvBytes_setHostOutput (f := fun h => { h with recvLen := s.reg.n }) (fun _ => rfl) s

end Sys2Proof.Machine
end

section
/-! How the host's exchange ends: the obligations on `execute` and `transceive` (42_executor R160 to R178). -/

namespace Sys2Proof.Machine

/-! ## The end of the host's exchange -/

/-- A classification that ends the host's exchange delivers its result. -/
theorem HostRun.delivers {s m : State} {events : List Event} {rest : List Answer} {r : Res}
    (h : HostRun s m events rest) (hr : exClassify m = .done r m) :
    settle (exClassify m) = deliver r m := by
  rw [hr, settle_done, h.stack, unwind_nil]

section
variable {s : State} {i : Instr} {a : Args} {x : ExReads} {rest : List Answer} {r : Res}
  (hi : IssuesExchange i s a) (hd : anyBit x.poll a.waitFlags = true)
  (he : (errFlags s.cfg x.error).protocolClass = false)
include hi hd he

/-- The host's exchange with a receive buffer ends where its classification ends it, the answer merged
into the buffer and counted (42_executor R161 to R174, R176). -/
theorem IssuesExchange.answered_ends {buf : List Byte} (hbuf : a.recv = some buf)
    (hf : x.Fits s.cfg buf.length)
    (ha : s.env.answers = exchangeAnswers s.cfg a.cmd a.send x ++ rest)
    (hr : ∀ m, m.cfg = s.cfg → Answered a.checkCrc x (receivedInto a.rxAlign buf x.bytes) m →
      exClassify m = .done r m) :
    ∃ t, RunsTo i s ((exchangeAnswers s.cfg a.cmd a.send x).length + 1) t ∧
      Ends s t r (exchangeEvents s.cfg a.cmd a.send a.rxAlign a.txLastBits x t.env.now) rest ∧
      Outputs t x.bytes.length (rxLastCount s.cfg x.control) ∧
      t.host.buf = receivedInto a.rxAlign buf x.bytes := by
  obtain ⟨m, hrun, h, hans⟩ := hi.answered hd he hbuf hf ha
  rw [h.delivers (hr m h.cfg hans)] at hrun
  obtain ⟨hlen, hlast⟩ := hans.outputs
  exact ⟨_, hrun, h.ends r, ⟨hlen, h.cfg ▸ hlast⟩, hans.buf⟩

/-- The host's exchange without one ends where its classification ends it, nothing handed to the host
(42_executor R161 to R170, R173, R176). -/
theorem IssuesExchange.unanswered_ends (hnone : a.recv = none)
    (ha : s.env.answers = silentAnswers s.cfg a.cmd a.send x ++ rest)
    (hr : ∀ m, m.cfg = s.cfg → Unanswered x s m → exClassify m = .done r m) :
    ∃ t, RunsTo i s ((silentAnswers s.cfg a.cmd a.send x).length + 1) t ∧
      Ends s t r (silentEvents s.cfg a.cmd a.send a.rxAlign a.txLastBits x t.env.now) rest ∧
      HostKept s t := by
  obtain ⟨m, hrun, h, hun⟩ := hi.unanswered hd he hnone ha
  rw [h.delivers (hr m h.cfg hun)] at hrun
  obtain ⟨hbuf, hlen, hlast⟩ := hun.kept
  exact ⟨_, hrun, h.ends r, deliver_hostKept r hbuf hlen hlast⟩

end

section
variable {s m : State} {events : List Event} {v : Byte} {rest : List Answer}
  (h : HostRun s m events (gave v :: rest))
include h

theorem HostRun.snapped : HostRun s (snapped v m) (evR aError v :: events) rest :=
  { h.read aError with }

theorem HostRun.sized : HostRun s (sized v m) (evR aFifoLevel v :: events) rest :=
  { h.read aFifoLevel with }

end

/-! ## The nested CRC computation -/

/-- A `calculate_crc` leaves the receive buffer alone. -/
theorem CrcRun.recvBytes {s m : State} {x : CrcReads} {rest : List Answer} (h : CrcRun s m x rest) :
    recvBytes m = recvBytes s := by
  unfold Machine.recvBytes
  rw [h.recvTarget, h.host, h.sel, h.reg]

/-- The nested CRC computation of the host's exchange, from where it is entered to what it ends with. -/
theorem HostRun.crc {s m : State} {events : List Event} {buffer : List Byte} {k : CrcReads}
    {rest : List Answer} (h : HostRun s m events (crcAnswers s.cfg buffer k ++ rest))
    (hk : k.Completes s.cfg) :
    ∃ n, Reaches ((crcAnswers s.cfg buffer k).length + 1) (settle (callCrc .r175 buffer m))
        (deliver (crcVerdict m.reg.n (recvBytes m) m.reg.rxlast (k.value s.cfg)) n) ∧
      HostRun s n (crcEvents s.cfg buffer k n.env.now ++ events) rest ∧ n.host = m.host := by
  have hcfg : (settle (callCrc .r175 buffer m)).cfg = s.cfg := h.cfg
  have hstack : (settle (callCrc .r175 buffer m)).stack = [.r175] :=
    congrArg (Ret.r175 :: ·) h.stack
  obtain ⟨n, hrun, hn⟩ := crc_run (s := settle (callCrc .r175 buffer m)) (x := k) (rest := rest) rfl
    (hcfg ▸ hk) (hcfg ▸ h.answers)
  have hchip := hn.chip
  have hlog := hn.log
  rw [hcfg] at hchip hlog
  rw [hcfg, hstack, unwind_exCrcDone, hn.recvBytes, hn.reg, hcfg] at hrun
  refine ⟨{ n with stack := [] }, hrun, ⟨hn.cfg.trans hcfg, hn.op ▸ h.op, rfl, hn.host ▸ h.port, ?log,
    ?chip, hn.answers⟩, hn.host⟩
  case log => rw [List.append_assoc, ← h.log]; exact hlog
  case chip => rw [chipAfter_append, ← h.chip]; exact hchip

/-! ## The obligations -/

/-- Settles O40: no collision and no CRC check, so the classification returns what was received. -/
theorem exchangeReceives : Obligations.ExchangeReceives := by
  unfold Obligations.ExchangeReceives
  intro s i cmd w send buf tx rx x rest hs hi ⟨hd, he, hcoll⟩ hf ha
  refine (exchangeCall_issued hs hi).answered_ends hd he rfl hf ha fun m hcfg hans => ?_
  rw [exClassify_unchecked (by rw [hcfg, hans.errsnap, hcoll]) (.inl hans.checkCrc), hans.n, hans.rxlast,
    hans.recvBytes, hcfg]
  rfl

/-- Settles O41: without a buffer the CRC check is not reached, whether it is asked for or not. -/
theorem exchangeSilent : Obligations.ExchangeSilent := by
  unfold Obligations.ExchangeSilent
  intro s i cmd w send tx rx check x rest hs hi ⟨hd, he, hcoll⟩ ha
  refine (exchangeCall_issued hs hi).unanswered_ends hd he rfl ha fun m hcfg hun => ?_
  rw [exClassify_unchecked (by rw [hcfg, hun.errsnap, hcoll]) (.inr hun.recvTarget), hun.n, hun.rxlast,
    recvBytes_of_absent hun.recvTarget]

/-- Settles O42: the host's exchange enters the nested computation where its answer is classified, and the
rule that takes the CRC ends it; both steps are those of every exchange. -/
theorem exchangeChecksCrc : Obligations.ExchangeChecksCrc := by
  unfold Obligations.ExchangeChecksCrc
  refine ⟨?host, ?enter, ?done⟩
  case host =>
    rintro s i cmd w send buf got tx rx x k rest hs hi ⟨hd, he, hcoll⟩ hf hn hwhole hk rfl ha
    rw [checkedAnswers, List.append_assoc] at ha
    obtain ⟨m, ⟨u, hexec, hrun⟩, h, hans⟩ :=
      (exchangeCall_issued hs hi).answered hd he rfl hf ha
    have hrxlast : m.reg.rxlast = 0 := by rw [hans.rxlast, h.cfg, hwhole]
    rw [exClassify_checked (by rw [h.cfg, hans.errsnap, hcoll]) hans.checkCrc
      hans.present (hans.n ▸ hn) hrxlast, hans.recvBytes, hans.n] at hrun
    obtain ⟨n, hcrc, h', hhost⟩ := h.crc hk
    rw [hans.n, hans.recvBytes, hrxlast] at hcrc
    obtain ⟨hlen, hlast⟩ := hans.outputs
    have hbuf := hans.buf
    rw [h.cfg, hwhole] at hlast
    rw [← hhost] at hlen hlast hbuf
    refine ⟨m.env.now, _, ⟨u, hexec, ?run⟩, h'.ends _, ⟨hlen, hlast⟩, hbuf⟩
    rw [checkedAnswers, List.length_append, Nat.add_add_add_comm _ _ 1 1]
    exact reaches_trans hrun hcrc
  case enter =>
    rintro s u v rest hs ha hk hr hcoll hn hx rfl
    rw [step_control hs ha,
      exClassify_checked (s := counted v s) (anyBit_eq_false_iff.mpr hcoll) hk hr hn hx,
      recvBytes_counted]
    simp only [counted, hx]
    rfl
  case done =>
    exact fun s => ⟨fun v => exCrcDone_ok v s, fun _ => rfl⟩

/-- Settles O43: the sending half and the snapshot step, which ends it. -/
theorem protocolErrorFirst : Obligations.ProtocolErrorFirst := by
  unfold Obligations.ProtocolErrorFirst
  constructor
  · intro s i cmd w send recv tx rx check x rest hs hi hd hproto ha
    rw [← anyBit_eq_true_iff, ← protocolClass_eq_anyBit] at hproto
    rw [silentAnswers, List.append_assoc] at ha
    obtain ⟨m, ⟨u, hexec, hrun⟩, h, ⟨hbuf, hlen, hlast⟩, hseq, -⟩ :=
      (exchangeCall_issued hs hi).sent hd ha
    have hstep := step_snapshot_protocolError hseq h.answers (h.cfg ▸ hproto)
    rw [h.stack, unwind_nil] at hstep
    refine ⟨_, ⟨u, hexec, ?_⟩, h.snapped.ends _, hbuf, hlen, hlast⟩
    rw [silentAnswers, List.length_append]
    exact reaches_trans hrun (reaches_succ hstep (reaches_zero _))
  · rintro s u v rest hs ha rfl
    rw [← anyBit_eq_true_iff, ← anyBit_eq_false_iff, ← protocolClass_eq_anyBit]
    exact ⟨step_snapshot_protocolError hs ha, step_snapshot_present hs ha⟩

/-- Settles O44: behind the sending half the snapshot goes on to the length step, which ends it. -/
theorem bufferTooSmall : Obligations.BufferTooSmall := by
  unfold Obligations.BufferTooSmall
  constructor
  · intro s i cmd w send buf tx rx check x rest hs hi hd he hsmall ha
    rw [silentAnswers, List.append_assoc] at ha
    obtain ⟨m, ⟨u, hexec, hrun⟩, h, ⟨hbuf, hlen, hlast⟩, hseq, htarget⟩ :=
      (exchangeCall_issued hs hi).sent hd ha
    have hsnapshot := step_snapshot_present hseq h.answers (h.cfg ▸ he) (by rw [htarget]; nofun)
    have h' : HostRun s (goto .r170 (snapped x.error m)) _ _ := { h.snapped with }
    have hheld : recvBytes (goto .r170 (snapped x.error m)) = buf :=
      (recvBytes_of_host htarget).trans hbuf
    have hlength := step_length_tooSmall (s := goto .r170 (snapped x.error m)) rfl h'.answers
      (by rw [hheld]; exact h.cfg ▸ hsmall)
    rw [h'.stack, unwind_nil] at hlength
    refine ⟨_, ⟨u, hexec, ?_⟩, h'.sized.ends _, hbuf, hlen, hlast⟩
    rw [silentAnswers, List.length_append]
    exact reaches_trans hrun (reaches_succ hsnapshot (reaches_succ hlength (reaches_zero _)))
  · rintro s u v n rest hs ha rfl rfl
    refine ⟨step_length_tooSmall hs ha, step_length_fits hs ha, fun hfits hbulk =>
      ⟨_, step_length_elided hs ha hfits hbulk, rfl, exStore_stack _ _, ?_, ?_⟩⟩
    · rw [exStore_nil]; rfl
    · exact recvBytes_exStore_nil (sized v s)

/-- Settles O45: a collision is the first thing the classification looks at. -/
theorem collisionReported : Obligations.CollisionReported := by
  unfold Obligations.CollisionReported
  constructor
  · intro s i cmd w send tx rx check x rest hs hd he hbit
    have hcoll : (errFlags s.cfg x.error).collision = true := anyBit_eq_true_iff.mpr hbit
    constructor
    · intro buf hi hf ha
      exact (exchangeCall_issued hs hi).answered_ends hd he rfl hf ha fun m hcfg hans =>
        exClassify_collision (by rw [hcfg, hans.errsnap, hcoll])
    · intro hi ha
      exact (exchangeCall_issued hs hi).unanswered_ends hd he rfl ha fun m hcfg hun =>
        exClassify_collision (by rw [hcfg, hun.errsnap, hcoll])
  · intro s v rest ha
    constructor
    · intro hs hcoll
      exact step_control_done hs ha (exClassify_collision (anyBit_eq_true_iff.mpr hcoll))
    · intro hs hr hproto hcoll
      rw [← anyBit_eq_false_iff, ← protocolClass_eq_anyBit] at hproto
      exact step_snapshot_collision hs ha hproto hr (anyBit_eq_true_iff.mpr hcoll)

/-- Settles O46: without a collision the classification looks at the shape next. -/
theorem responseShape : Obligations.ResponseShape := by
  unfold Obligations.ResponseShape
  constructor
  · intro s i cmd w send buf tx rx x rest hs hi ⟨hd, he, hcoll⟩ hf hshape ha
    refine (exchangeCall_issued hs hi).answered_ends hd he rfl hf ha fun m hcfg hans => ?_
    rw [exClassify_misshapen (by rw [hcfg, hans.errsnap, hcoll]) hans.checkCrc
      hans.present (by rwa [hans.n, hans.rxlast, hcfg]), hans.n, hans.rxlast, hcfg]
  · rintro s u v rest hs ha hk hr hcoll rfl
    have hends : (s.reg.n < 2 ∨ rxLastCount s.cfg v ≠ 0) →
        step s = .next (unwind s.stack
          (if s.reg.n = 1 ∧ rxLastCount s.cfg v = 4 then .err .nack else .err .crcMismatch)
          (counted v s)) :=
      fun hshape => step_control_done hs ha
        (exClassify_misshapen (anyBit_eq_false_iff.mpr hcoll) hk hr hshape)
    constructor
    · intro hn hx
      rw [hends (.inl (hn ▸ Nat.one_lt_two)), if_pos ⟨hn, hx⟩]
      rfl
    · intro hother hshape
      rw [hends hshape, if_neg hother]
      rfl

end Sys2Proof.Machine
end

section
/-! The SAK's type, and the UID as its levels put it together (43_select R202, R217, R221). -/

namespace Sys2Proof.Machine

theorem piccTypeOf_of_tests_clear (c : Config) {sak : Byte} (h : sak &&& 0x64#8 = 0) :
    piccTypeOf c sak = (c.sakTable.lookup sak).getD .unknown := by
  have hbits : sak &&& (0x04#8 ||| (0x20#8 ||| 0x40#8)) = 0 := h
  simp only [← anyBit_eq_false_iff, anyBit_or, Bool.or_eq_false_iff] at hbits
  obtain ⟨h04, h20, h40⟩ := hbits
  simp only [piccTypeOf, h04, h20, h40, Bool.false_eq_true, if_false]
  cases c.sakTable.lookup sak <;> rfl

/-- Settles O9: one test after the other; where all three are clear the table decides. -/
theorem piccTypeOrder : Obligations.PiccTypeOrder := by
  unfold Obligations.PiccTypeOrder
  intro c sak
  simp only [← anyBit_eq_false_iff, ← anyBit_eq_true_iff]
  refine ⟨fun h04 => ?_, fun h04 h20 => ?_, fun h04 h20 h40 => ?_, fun t h ht => ?_, fun h hnone => ?_⟩
  · simp [piccTypeOf, h04]
  · simp [piccTypeOf, h04, h20]
  · simp [piccTypeOf, h04, h20, h40]
  · rw [piccTypeOf_of_tests_clear c (anyBit_eq_false_iff.mp h), ht, Option.getD_some]
  · rw [piccTypeOf_of_tests_clear c (anyBit_eq_false_iff.mp h), hnone, Option.getD_none]

theorem uidSizeLegal_iff {n : Nat} : uidSizeLegal n = true ↔ n ∈ [4, 7, 10] := by
  simp [uidSizeLegal, or_assoc]

/-- Behind a cascade tag a level has three bytes of the UID (43_select R202, R217). -/
theorem levelUidBytes_knownBytes_more {u : Uid} {l : Nat} (h : 3 * (l + 1) + 1 < u.size) (sel nvb : Byte)
    (behind : List Byte) :
    levelUidBytes (sel :: nvb :: (knownBytes u l ++ behind)) =
      [uidByte u (3 * l), uidByte u (3 * l + 1), uidByte u (3 * l + 2)] := by
  rw [knownBytes, if_pos h]
  rfl

/-- The last level has four, when they do not begin with the tag (43_select R226). -/
theorem levelUidBytes_knownBytes_last {u : Uid} {l : Nat} (h : u.size ≤ 3 * (l + 1) + 1)
    (htag : uidByte u (3 * l) ≠ cascadeTag) (sel nvb : Byte) (behind : List Byte) :
    levelUidBytes (sel :: nvb :: (knownBytes u l ++ behind)) =
      [uidByte u (3 * l), uidByte u (3 * l + 1), uidByte u (3 * l + 2), uidByte u (3 * l + 3)] := by
  rw [knownBytes, if_neg (Nat.not_lt.mpr h)]
  exact if_neg htag

/-- Settles O10, size by size: a tagged level for every three bytes, then the last four. -/
theorem knownBytesCopyBack : Obligations.KnownBytesCopyBack := by
  unfold Obligations.KnownBytesCopyBack
  intro c u crc hsize htag
  have hcases : u.size = 4 ∨ u.size = 7 ∨ u.size = 10 := by simpa using uidSizeLegal_iff.mp hsize
  rcases hcases with h | h | h <;> rw [h] at htag ⊢
  · have last := levelUidBytes_knownBytes_last (l := 0) h.le htag
    simp [List.range_succ, copyLevel, overlayAt, overlay, last]
  · have first := levelUidBytes_knownBytes_more (u := u) (l := 0) (by omega)
    have last := levelUidBytes_knownBytes_last (l := 1) h.le htag
    simp [List.range_succ, copyLevel, overlayAt, overlay, first, last]
  · have first := levelUidBytes_knownBytes_more (u := u) (l := 0) (by omega)
    have second := levelUidBytes_knownBytes_more (u := u) (l := 1) (by omega)
    have last := levelUidBytes_knownBytes_last (l := 2) h.le htag
    simp [List.range_succ, copyLevel, overlayAt, overlay, first, second, last]

end Sys2Proof.Machine
end

section
/-! The rules of the Select engine between its exchanges, a lemma for each branch, and the obligations on
single rules (43_select R193 to R220). -/

namespace Sys2Proof.Machine

/-! ## The short frames of `activate` -/

/-- Settles O27: `Ok` and `Collision` are the two cases in which the rules go on to `select`. -/
theorem activateFallback : Obligations.ActivateFallback := by
  unfold Obligations.ActivateFallback
  intro s
  constructor
  · rintro r (⟨v, rfl⟩ | rfl) <;> exact ⟨rfl, rfl⟩
  · intro e he
    cases e with
    | collision => exact absurd rfl he
    | _ => exact ⟨rfl, _, rfl, rfl, rfl, rfl, rfl, rfl, rfl, rfl, rfl, rfl, rfl⟩

/-! ## The result of a probe -/

/-- Settles O53: each of the three kinds of result has its arm in the rule. -/
theorem probeOutcome : Obligations.ProbeOutcome := by
  unfold Obligations.ProbeOutcome
  intro s _
  refine ⟨fun v => ⟨_, rfl, rfl, rfl, rfl, rfl, rfl, rfl⟩, ⟨_, rfl, rfl, rfl, rfl, rfl, rfl⟩,
    fun e he => ?_⟩
  cases e with
  | collision => exact absurd rfl he
  | _ => exact ⟨_, rfl, rfl, rfl⟩

/-! ## A level from its start -/

theorem latchProbe_txb (s : State) :
    (latchProbe s).reg.txb = (latchProbe s).sel.buf.take (probeLen s.sel.kb) := rfl

/-- The state in which the first probe of a level has been latched (43_select R201, R204 to R206). -/
def firstProbe (s : State) : State :=
  goto .r161 (push .r206 (latchProbe (setSelState .probing (levelInit s))))

/-- Without known bytes a level begins with a probe. -/
theorem startLevel_probing {s : State} (h : s.arg.specific = false) :
    startLevel s = .running (firstProbe s) := by
  simp only [startLevel, levelInit_arg, h, Bool.false_eq_true, if_false]
  rfl

theorem firstProbe_stack (s : State) : (firstProbe s).stack = .r206 :: s.stack := rfl
theorem firstProbe_log (s : State) : (firstProbe s).log = s.log := rfl
theorem firstProbe_sel (s : State) : (firstProbe s).sel =
    { s.sel with
      state := .probing, buf := [s.cfg.selCl s.sel.level, nvbOf 0, 0, 0, 0, 0, 0, 0, 0], kb := 0,
      att := 1, collpos := 0 } := rfl

theorem firstProbe_txb (s : State) :
    (firstProbe s).reg.txb = [s.cfg.selCl s.sel.level, nvbOf 0] := by
  have htxb := latchProbe_txb (setSelState .probing (levelInit s))
  have hsel := firstProbe_sel s
  exact htxb.trans (congrArg (fun sel => sel.buf.take (probeLen 0)) hsel)

theorem knownBytes_length (u : Uid) (l : Nat) : (knownBytes u l).length = 4 := by
  unfold knownBytes
  split <;> rfl

/-- The five candidate bytes of a level whose bytes are known, their BCC last (43_select R202). -/
def knownCandidate (u : Uid) (l : Nat) : List Byte := knownBytes u l ++ [bccOf (knownBytes u l)]

theorem knownCandidate_length (u : Uid) (l : Nat) : (knownCandidate u l).length = 5 := by
  rw [knownCandidate, List.length_append, knownBytes_length, List.length_singleton]

/-- A candidate in the frame buffer of a level, and the NVB of its SELECT (43_select R212). -/
theorem overlayAt_candidate {sel nvb b2 b3 b4 b5 b6 : Byte} {candidate behind : List Byte}
    (h : candidate.length = 5) :
    (overlayAt (sel :: nvb :: b2 :: b3 :: b4 :: b5 :: b6 :: behind) 2 candidate).set 1 nvbSelect =
      sel :: nvbSelect :: (candidate ++ behind) := by
  simp [overlayAt, overlay, h, List.take_of_length_le]

/-- The state in which the SELECT of a level whose candidate stands in BUF waits for its CRC
(43_select R212, R213). -/
def selecting (s : State) : State :=
  let buf := s.sel.buf.set 1 nvbSelect
  goto .r141 { s with
    sel := { s.sel with state := .selecting, buf := buf }
    stack := .r213 :: s.stack
    arg := { s.arg with buffer := buf.take 7 } }

theorem startSelecting_eq (s : State) : startSelecting s = .running (selecting s) := rfl

/-- The state in which a level whose bytes are known has begun (43_select R201, R202). -/
def knownSelect (s : State) : State :=
  selecting (loadKnown (s.arg.uidHint.getD { }) (levelInit s))

/-- With known bytes a level begins with the SELECT. -/
theorem startLevel_specific {s : State} (h : s.arg.specific = true) :
    startLevel s = .running (knownSelect s) := by
  simp only [startLevel, levelInit_arg, h, if_true]
  rfl

theorem knownSelect_stack (s : State) : (knownSelect s).stack = .r213 :: s.stack := rfl
theorem knownSelect_log (s : State) : (knownSelect s).log = s.log := rfl
theorem knownSelect_sel (s : State) : (knownSelect s).sel =
    { s.sel with
      state := .selecting
      buf := s.cfg.selCl s.sel.level :: nvbSelect ::
        (knownCandidate (s.arg.uidHint.getD { }) s.sel.level ++ [0, 0])
      kb := 32, att := 0, collpos := 0 } := by
  have hbuf := overlayAt_candidate (sel := s.cfg.selCl s.sel.level) (nvb := 0) (b2 := 0) (b3 := 0)
    (b4 := 0) (b5 := 0) (b6 := 0) (behind := [0, 0])
    (knownCandidate_length (s.arg.uidHint.getD { }) s.sel.level)
  rw [← hbuf]
  rfl

/-- The first seven bytes of a frame buffer whose candidate is complete. -/
theorem take_seven {sel nvb : Byte} {candidate behind : List Byte} (h : candidate.length = 5) :
    (sel :: nvb :: (candidate ++ behind)).take 7 = sel :: nvb :: candidate := by
  simp [h]

theorem knownSelect_buffer (s : State) : (knownSelect s).arg.buffer =
    s.cfg.selCl s.sel.level :: nvbSelect :: knownCandidate (s.arg.uidHint.getD { }) s.sel.level := by
  have hbuf : (knownSelect s).arg.buffer = (knownSelect s).sel.buf.take 7 := rfl
  rw [hbuf, knownSelect_sel, take_seven (knownCandidate_length _ _)]

/-! ## The SELECT was answered -/

/-- The level's bytes copied into the UID (43_select R217). -/
def copied (s : State) : State :=
  { s with sel := { s.sel with uidAcc := copyLevel s.sel.level s.sel.buf s.sel.uidAcc } }

/-- The state in which the next level starts (43_select R219). -/
def nextLevel (s : State) : State :=
  { copied s with sel := { (copied s).sel with level := s.sel.level + 1 } }

theorem nextLevel_cfg (s : State) : (nextLevel s).cfg = s.cfg := rfl
theorem nextLevel_arg (s : State) : (nextLevel s).arg = s.arg := rfl
theorem nextLevel_stack (s : State) : (nextLevel s).stack = s.stack := rfl
theorem nextLevel_log (s : State) : (nextLevel s).log = s.log := rfl
theorem nextLevel_sel (s : State) : (nextLevel s).sel =
    { s.sel with
      uidAcc := copyLevel s.sel.level s.sel.buf s.sel.uidAcc, level := s.sel.level + 1 } := rfl

/-- The UID record `select` returns when its last level was answered with `sak` (43_select R220). -/
def finalUid (sak : Byte) (s : State) : Uid :=
  { copyLevel s.sel.level s.sel.buf s.sel.uidAcc with
    size := 3 * (s.sel.level + 1) + 1, sak := sak, piccType := piccTypeOf s.cfg sak }

section
variable {s : State} {sak : Byte} (hsak : s.sel.sakb.getD 0 0 = sak)
include hsak

theorem selectAnswered_more (hbit : anyBit sak sakNotComplete = true) (hlevel : s.sel.level < 2) :
    selectAnswered s = startLevel (nextLevel s) := by
  unfold selectAnswered
  dsimp only
  rw [hsak, if_pos hbit, if_pos (show s.sel.level < maxLevels - 1 from hlevel)]
  rfl

theorem selectAnswered_exhausted (hbit : anyBit sak sakNotComplete = true) (hlevel : 2 ≤ s.sel.level) :
    selectAnswered s = selectFails .protocolError (setSelState .exhausted (copied s)) := by
  unfold selectAnswered
  dsimp only
  rw [hsak, if_pos hbit, if_neg (show ¬ s.sel.level < maxLevels - 1 from Nat.not_lt.mpr hlevel)]
  rfl

theorem selectAnswered_final (hbit : anyBit sak sakNotComplete = false) :
    selectAnswered s = .done (.ok (.uid (finalUid sak s)))
      (setSelState .idle { s with sel := { s.sel with uidAcc := finalUid sak s } }) := by
  unfold selectAnswered
  dsimp only
  rw [hsak, hbit, if_neg Bool.false_ne_true]
  rfl

end

/-- Settles O54: the three branches of the cascade test, the first by how its level starts. -/
theorem cascadeDecides : Obligations.CascadeDecides := by
  unfold Obligations.CascadeDecides
  rintro s v sak sel acc known rfl rfl rfl rfl
  simp only [← anyBit_eq_true_iff, ← anyBit_eq_false_iff]
  refine ⟨fun hbit hlevel => ?more, fun hbit hlevel => ?exhausted, fun hbit => ?final⟩
  case more =>
    have hnext : resume .r215 (.ok v) s = startLevel (nextLevel s) := selectAnswered_more rfl hbit hlevel
    cases hspecific : s.arg.specific with
    | false =>
      rw [hnext, startLevel_probing (by rw [nextLevel_arg, hspecific])]
      refine ⟨_, rfl, ?_⟩
      rw [firstProbe_sel, firstProbe_txb, firstProbe_log, firstProbe_stack]
      simp only [nextLevel_sel, nextLevel_cfg, nextLevel_stack, nextLevel_log, true_and]
      exact ⟨fun _ => ⟨rfl, rfl, rfl⟩, nofun⟩
    | true =>
      rw [hnext, startLevel_specific (by rw [nextLevel_arg, hspecific])]
      refine ⟨_, rfl, ?_⟩
      rw [knownSelect_sel, knownSelect_buffer, knownSelect_log, knownSelect_stack, knownCandidate]
      simp only [nextLevel_sel, nextLevel_cfg, nextLevel_arg, nextLevel_stack, nextLevel_log,
        List.append_assoc, true_and, and_true]
      exact ⟨nofun, fun _ => ⟨rfl, rfl⟩⟩
  case exhausted =>
    exact ⟨_, selectAnswered_exhausted rfl hbit hlevel, rfl, rfl⟩
  case final =>
    exact ⟨_, selectAnswered_final rfl hbit, rfl, rfl⟩

/-! ## Arguments -/

theorem selectArgsLegal_specific_false {h : Option Uid} (hsize : ∀ u, h = some u → u.size ∉ [4, 7, 10]) :
    selectArgsLegal h true = false := by
  cases h with
  | none => rfl
  | some u =>
    exact (Bool.eq_false_iff.mpr fun hlegal => hsize u rfl (uidSizeLegal_iff.mp hlegal) :
      uidSizeLegal u.size = false)

/-- The arguments of an instruction that a rule refuses before any transaction. -/
def Refused (i : Instr) (s : State) : Prop :=
  ∃ op ports, exec i s = .next (deliver (.err .invalidArgument) (s.latched op ports))

theorem Refused.ends {i : Instr} {s : State} (h : Refused i s) :
    ∃ t, exec i s = .next t ∧ Ends s t (.err .invalidArgument) [] s.env.answers ∧ t.env = s.env ∧
      HostKept s t := by
  obtain ⟨op, ports, hexec⟩ := h
  exact ⟨_, hexec, deliver_ends rfl rfl rfl rfl rfl rfl, rfl, deliver_hostKept _ rfl rfl rfl⟩

section
variable {i : Instr} {s : State} (hs : s.seq = .idle)
include hs

theorem refused_of_start {op : Byte} {ports : Args} {start : State → Flow}
    (hexec : exec i s = accept op ports start s)
    (hraise : start (s.latched op ports) = raise .invalidArgument (s.latched op ports)) : Refused i s :=
  ⟨op, ports, by rw [hexec, accept_idle hs, hraise]; rfl⟩

theorem activate_refused {h : Option Uid} (hargs : selectArgsLegal h true = false) :
    Refused (.activate h true) s := by
  refine refused_of_start hs (by rw [exec, execActivate]) ?_
  exact if_neg (Bool.eq_false_iff.mp hargs)

theorem select_refused {h : Option Uid} (hargs : selectArgsLegal h true = false) :
    Refused (.select h true) s := by
  refine refused_of_start hs rfl ?_
  exact if_neg (Bool.eq_false_iff.mp hargs)

theorem authenticate_refused {u : Uid} {key : List Byte}
    (hargs : u.size ∉ [4, 7, 10] ∨ key.length ≠ 6) (block : Byte) :
    Refused (.authenticateA u key block) s ∧ Refused (.authenticateB u key block) s := by
  have hcheck : ¬ (uidSizeLegal u.size && key.length == 6) = true := by
    rw [Bool.and_eq_true, beq_iff_eq, uidSizeLegal_iff]
    exact fun ⟨hsize, hkey⟩ => hargs.elim (absurd hsize) (absurd hkey)
  exact ⟨refused_of_start hs rfl (if_neg hcheck), refused_of_start hs rfl (if_neg hcheck)⟩

theorem readBlock_refused {out : List Byte} (hout : out.length < 18) (addr : Byte) :
    Refused (.readBlock addr out) s := by
  refine refused_of_start hs (by rw [exec, execReadBlock]) ?_
  exact if_pos hout

theorem writeBlock_refused {data : List Byte} (hdata : data.length ≠ 16) (addr : Byte) :
    Refused (.writeBlock addr data) s := by
  refine refused_of_start hs (by rw [exec, execWriteBlock]) ?_
  exact if_pos hdata

theorem writePage_refused {data : List Byte} (hdata : data.length ≠ 4) (page : Byte) :
    Refused (.writePage page data) s := by
  refine refused_of_start hs (by rw [exec, execWritePage]) ?_
  exact if_pos hdata

end

/-- Settles O28: each check stands before the first step of its operation. -/
theorem argumentsRefused : Obligations.ArgumentsRefused := by
  unfold Obligations.ArgumentsRefused
  intro s i hs hargs
  refine Refused.ends ?_
  rcases hargs with ⟨h, rfl | rfl, hsize⟩ | ⟨u, key, block, rfl | rfl, huid⟩ | ⟨a, out, rfl, hout⟩ |
    ⟨a, data, rfl, hdata⟩ | ⟨p, data, rfl, hdata⟩
  · exact activate_refused hs (selectArgsLegal_specific_false hsize)
  · exact select_refused hs (selectArgsLegal_specific_false hsize)
  · exact (authenticate_refused hs huid block).1
  · exact (authenticate_refused hs huid block).2
  · exact readBlock_refused hs hout a
  · exact writeBlock_refused hs hdata a
  · exact writePage_refused hs hdata p

end Sys2Proof.Machine
end

section
/-! The read of the collision position, and the known bits it extends (43_select R209 to R211). -/

namespace Sys2Proof.Machine

/-! ## The bit at the collision position -/

theorem getD_set_ne (bs : List Byte) (b : Byte) {i j : Nat} (h : i ≠ j) :
    (bs.set i b).getD j 0 = bs.getD j 0 := by
  simp only [List.getD_eq_getElem?_getD, List.getElem?_set_ne h]

section
variable {buf : List Byte} {p : Nat}

/-- The byte of the collision position takes its bit (43_select R210). -/
theorem setCollisionBit_getD_same (h : 2 + (p - 1) / 8 < buf.length) :
    (setCollisionBit p buf).getD (2 + (p - 1) / 8) 0 =
      buf.getD (2 + (p - 1) / 8) 0 ||| (1#8 <<< ((p - 1) % 8)) := by
  simp [setCollisionBit, h]

theorem setCollisionBit_getD_other {k : Nat} (h : k ≠ 2 + (p - 1) / 8) :
    (setCollisionBit p buf).getD k 0 = buf.getD k 0 :=
  getD_set_ne _ _ h.symm

/-- Of that byte the one bit is set and the others stay. -/
theorem setCollisionBit_getLsbD (h : 2 + (p - 1) / 8 < buf.length) (j : Nat) :
    ((setCollisionBit p buf).getD (2 + (p - 1) / 8) 0).getLsbD j =
      (decide (j = (p - 1) % 8) || (buf.getD (2 + (p - 1) / 8) 0).getLsbD j) := by
  have hbit : (1#8 <<< ((p - 1) % 8)).getLsbD j = decide (j = (p - 1) % 8) := by
    have hsmall : (p - 1) % 8 < 8 := Nat.mod_lt _ (by decide)
    rw [← BitVec.twoPow_eq, BitVec.getLsbD_twoPow, decide_eq_true hsmall, Bool.true_and]
    exact decide_eq_decide.mpr eq_comm
  rw [setCollisionBit_getD_same h, BitVec.getLsbD_or, hbit, Bool.or_comm]

end

/-! ## The step that reads the collision position -/

/-- Nothing stands between `select` and its end but the rule that passes its result on (R195). -/
theorem unwind_selectCallers {stack : List Ret} (h : stack ∈ selectCallers) (r : Res) (s : State) :
    unwind stack r s = deliver r s := by
  obtain rfl | rfl : stack = [] ∨ stack = [.r195] := by simpa using h
  · rfl
  · rfl

/-- The state in which the collision at position `p` has extended the known bits (43_select R209, R210). -/
def collided (p : Nat) (s : State) : State := extendPrefix p (s.afterTx (.rd aColl))

/-- The state in which the next probe has been latched (43_select R205, R206, R211). -/
def nextProbe (p : Nat) (s : State) : State :=
  goto .r161 (push .r206 (latchProbe (setSelState .probing (collided p s))))

theorem nextProbe_sel (p : Nat) (s : State) : (nextProbe p s).sel =
    { s.sel with
      state := .probing, buf := (setCollisionBit p s.sel.buf).set 1 (nvbOf p), kb := p,
      att := s.sel.att + 1, collpos := p } := rfl

section
variable {s : State} {v : Byte} {rest : List Answer} (hs : s.seq = .r209)
  (ha : s.env.answers = gave v :: rest)
include hs ha

theorem stepLabel_collision : stepLabel s =
    if s.sel.att = s.cfg.maxProbes then
      selectFails .collision (collided (collisionPosition s.cfg v) s)
    else .running (nextProbe (collisionPosition s.cfg v) s) := by
  have hlabel : stepLabel s = collisionRead s := by simp only [stepLabel, hs]
  rw [hlabel, collisionRead, readThen_ok ha]
  rfl

theorem step_collision_again (hatt : s.sel.att ≠ s.cfg.maxProbes) :
    step s = .next (nextProbe (collisionPosition s.cfg v) s) := by
  rw [step_busy (hs ▸ nofun), advance, stepLabel_collision hs ha, if_neg hatt, settle_running]

theorem step_collision_last (hatt : s.sel.att = s.cfg.maxProbes) (hstack : s.stack ∈ selectCallers) :
    step s = .next (deliver (.err .collision) (s.afterTx (.rd aColl))) := by
  rw [step_busy (hs ▸ nofun), advance, stepLabel_collision hs ha, if_pos hatt, selectFails, raise,
    settle_done]
  exact congrArg _ (unwind_selectCallers hstack _ _)

end

/-- Settles O52: at the bound the step delivers the error, below it the next probe is latched on the
extended known bits. -/
theorem collisionExtendsPrefix : Obligations.CollisionExtendsPrefix := by
  unfold Obligations.CollisionExtendsPrefix
  rintro s v p rest hinv hs ha rfl
  have hstack : s.stack ∈ selectCallers := by
    have hchain := hinv.chain
    rwa [hs] at hchain
  have hlog : (s.afterTx (.rd aColl)).log = evR aColl v :: s.log := afterTx_log_ok ha rfl
  by_cases hatt : s.sel.att = s.cfg.maxProbes
  · exact ⟨_, step_collision_last hs ha hatt hstack, hlog, fun _ => ⟨deliver_atRest _ _, rfl⟩,
      fun h => absurd hatt h⟩
  · refine ⟨_, step_collision_again hs ha hatt, hlog, fun h => absurd h hatt, fun _ => ?_⟩
    have hp := collisionPosition_le hinv.regs.fields v
    generalize collisionPosition s.cfg v = p at hp ⊢
    have hbuf := hinv.regs.buf
    have hi : 2 + (p - 1) / 8 < s.sel.buf.length := by omega
    have hbyte : ((setCollisionBit p s.sel.buf).set 1 (nvbOf p)).getD (2 + (p - 1) / 8) 0 =
        (setCollisionBit p s.sel.buf).getD (2 + (p - 1) / 8) 0 := getD_set_ne _ _ (by omega)
    rw [nextProbe_sel, hbyte]
    refine ⟨rfl, rfl, rfl, rfl, rfl, rfl, rfl, rfl, ?bit, fun k hnvb hk => ?otherBytes,
      fun j hj => ?otherBits, ?nvb, rfl, rfl, rfl, rfl, rfl, rfl, rfl⟩
    case bit => rw [setCollisionBit_getLsbD hi, decide_eq_true rfl, Bool.true_or]
    case otherBytes => exact (getD_set_ne _ _ hnvb.symm).trans (setCollisionBit_getD_other hk)
    case otherBits => rw [setCollisionBit_getLsbD hi, decide_eq_false hj, Bool.false_or]
    case nvb => simp [hbuf]

end Sys2Proof.Machine
end

section
/-! The transitions of SELSTATE (43_select R222): `Colliding` is entered from `Probing` alone and left for
`Probing` or `Idle`. -/

namespace Sys2Proof.Machine

/-! ## Inside one operation -/

/-- The flow leaves SELSTATE as it is in `s`, and where it ends an operation, the return stack too. -/
def KeepsSelState (s : State) : Flow → Prop
  | .running u => u.sel.state = s.sel.state
  | .done _ u => u.sel.state = s.sel.state ∧ u.stack = s.stack

theorem onTx_keepsSelState {x : Tx} {k : List Byte → State → Flow} {s : State}
    (hk : ∀ bs u, KeepsSelState u (k bs u)) : KeepsSelState s (onTx x k s) :=
  onTx_ind (P := KeepsSelState s) (fun bs _ _ => hk bs (s.afterTx x)) fun _ => ⟨rfl, rfl⟩

theorem writeThen_keepsSelState {a v : Byte} {next : Seq} {s : State} :
    KeepsSelState s (writeThen a v next s) := onTx_keepsSelState fun _ _ => rfl

theorem pollRead_keepsSelState {a d f : Byte} {again : Seq} {completed : State → Flow} {s : State}
    (hk : ∀ u, KeepsSelState u (completed u)) : KeepsSelState s (pollRead a d f again completed s) :=
  onTx_keepsSelState fun bs u => by
    dsimp only
    split
    · exact hk { u with reg := { u.reg with pollv := firstByte bs } }
    · split
      · exact ⟨rfl, rfl⟩
      · exact rfl

theorem pollTime_keepsSelState {deadline : Nat} {head : Seq} {s : State} :
    KeepsSelState s (pollTime deadline head s) := by
  rw [pollTime_eq]
  split
  · exact ⟨rfl, rfl⟩
  · exact rfl

theorem exClassify_keepsSelState (s : State) : KeepsSelState s (exClassify s) := by
  unfold exClassify
  split
  · exact ⟨rfl, rfl⟩
  · split
    · split
      · exact ⟨rfl, rfl⟩
      · split
        · exact ⟨rfl, rfl⟩
        · exact rfl
    · exact ⟨rfl, rfl⟩

theorem exError_keepsSelState (s : State) : KeepsSelState s (exError s) :=
  onTx_keepsSelState fun bs u => by
    dsimp only
    split
    · exact ⟨rfl, rfl⟩
    · split
      · exact rfl
      · exact exClassify_keepsSelState (exNoRecv { u with reg := { u.reg with errsnap := firstByte bs } })

theorem exLength_keepsSelState (s : State) : KeepsSelState s (exLength s) :=
  onTx_keepsSelState fun bs u => by
    dsimp only
    split
    · exact ⟨rfl, rfl⟩
    · split
      · exact exStore_selState [] { u with reg := { u.reg with n := fifoCount u.cfg (firstByte bs) } }
      · exact rfl

/-- No step but the read of the collision position touches SELSTATE before its operation ends. -/
theorem stepLabel_keepsSelState {s : State} (h : s.seq ≠ .r209) : KeepsSelState s (stepLabel s) := by
  unfold stepLabel
  cases hs : s.seq with
  | idle | r147t | r168t | r127t => exact rfl
  | r141 | r142 | r143 | r145 | r161 | r162 | r163 | r165 | r166 | r167w =>
    exact writeThen_keepsSelState
  | r144 | r146 | r148h | r148l | r164 | r167r | r124r | r125r =>
    exact onTx_keepsSelState fun _ _ => rfl
  | r149 | r124w | r125w => exact onTx_keepsSelState fun _ _ => ⟨rfl, rfl⟩
  | r147n | r168n | r127n => exact pollTime_keepsSelState
  | r147r | r168r => exact pollRead_keepsSelState fun _ => rfl
  | r127r => exact pollRead_keepsSelState fun _ => ⟨rfl, rfl⟩
  | r169 => exact exError_keepsSelState s
  | r170 => exact exLength_keepsSelState s
  | r171 => exact onTx_keepsSelState fun _ _ => exStore_selState _ _
  | r172 => exact onTx_keepsSelState fun _ _ => exClassify_keepsSelState _
  | r209 => exact absurd hs h

/-! ## `Colliding` is entered from a probe alone -/

/-- Neither a level that begins nor `select` that is entered is in `Colliding`. -/
theorem startLevel_not_colliding (s : State) : (startLevel s).state.sel.state ≠ .colliding := by
  unfold startLevel
  dsimp only
  split
  · nofun
  · nofun

theorem enterSelect_not_colliding {s : State} (h : s.sel.state ≠ .colliding) :
    (enterSelect s).state.sel.state ≠ .colliding := by
  unfold enterSelect
  split
  · exact startLevel_not_colliding _
  · exact h

theorem selectAnswered_not_colliding (s : State) : (selectAnswered s).state.sel.state ≠ .colliding := by
  unfold selectAnswered
  dsimp only
  split
  · split
    · exact startLevel_not_colliding _
    · nofun
  · nofun

/-- Of the return rules only that of a probe leads to `Colliding`. -/
theorem resume_not_colliding {l : Ret} (hl : l ≠ .r206) (r : Res) {s : State}
    (h : s.sel.state ≠ .colliding) : (resume l r s).state.sel.state ≠ .colliding := by
  cases l with
  | r206 => exact absurd rfl hl
  | r94 | r151 | r214 | r223 | r248 | r250 => cases r <;> exact h
  | r195 => exact h
  | r152 =>
    simp only [resume, verifyCrcDone]
    split
    · exact h
    · split <;> exact h
  | r175 =>
    simp only [resume, exCrcDone]
    split
    · exact h
    · split <;> exact h
  | r193 =>
    simp only [resume, reqaDone]
    split
    · exact enterSelect_not_colliding h
    · exact enterSelect_not_colliding h
    · exact h
  | r194 =>
    simp only [resume, wupaDone]
    split
    · exact enterSelect_not_colliding h
    · exact enterSelect_not_colliding h
    · exact h
  | r213 =>
    cases r with
    | ok v => exact h
    | err e => nofun
  | r215 =>
    cases r with
    | ok v => exact selectAnswered_not_colliding s
    | err e => nofun
  | r224 =>
    simp only [resume, haltDone]
    split <;> exact h
  | r251 =>
    simp only [resume, mifareDone, ackOrNak]
    split
    · split
      · exact h
      · split <;> exact h
    · split <;> exact h
    · exact h

theorem unwind_not_colliding {l : List Ret} (hl : .r206 ∉ l) (r : Res) {s : State}
    (h : s.sel.state ≠ .colliding) : (unwind l r s).sel.state ≠ .colliding := by
  induction l generalizing r s with
  | nil => nofun
  | cons l rest ih =>
    have hresume := resume_not_colliding (List.ne_of_not_mem_cons hl).symm r (s := { s with stack := rest }) h
    cases hf : resume l r { s with stack := rest } with
    | running u => rw [unwind_running hf]; rwa [hf] at hresume
    | done r' u =>
      rw [hf] at hresume
      rw [unwind_done hf]
      exact ih (List.not_mem_of_not_mem_cons hl) r' hresume

/-- A step of an operation in progress that is neither at the collision read nor under a probe. -/
theorem advance_not_colliding {s : State} (hs : s.seq ≠ .r209) (hstack : .r206 ∉ s.stack)
    (h : s.sel.state ≠ .colliding) : (advance s).sel.state ≠ .colliding := by
  have hkeeps := stepLabel_keepsSelState hs
  unfold advance
  cases hf : stepLabel s with
  | running u =>
    rw [hf] at hkeeps
    exact fun hu => h (hkeeps.symm.trans hu)
  | done r u =>
    rw [hf] at hkeeps
    obtain ⟨hstate, hsame⟩ := hkeeps
    rw [settle_done, hsame]
    exact unwind_not_colliding hstack r fun hu => h (hstate.symm.trans hu)

/-! ## No instruction begins in `Colliding` -/

theorem land_not_colliding {f : Flow} (h : f.state.sel.state ≠ .colliding) :
    (land f).sel.state ≠ .colliding := by
  cases f with
  | running u => exact h
  | done r u => nofun

theorem onTx_ret_not_colliding {x : Tx} {value : List Byte → Value} {s : State}
    (h : s.sel.state ≠ .colliding) :
    (onTx x (fun bs u => ret (value bs) u) s).state.sel.state ≠ .colliding :=
  onTx_ind (P := fun f => f.state.sel.state ≠ .colliding) (fun _ _ _ => h) fun _ => h

theorem exec_not_colliding {i : Instr} {s t : State} (h : s.sel.state ≠ .colliding)
    (ht : exec i s = .next t) : t.sel.state ≠ .colliding := by
  unfold exec at ht
  cases i <;> obtain ⟨-, rfl⟩ := accept_next ht <;> refine land_not_colliding ?_
  case rd | wr | cmdIdle | cmdCalcCrc | cmdTransceive | cmdMfAuthent => exact onTx_ret_not_colliding h
  case select => exact enterSelect_not_colliding h
  case rdb | wrb =>
    split
    · exact h
    · exact onTx_ret_not_colliding h
  case activate | readBlock | writeBlock | writePage =>
    split <;> exact h
  case authenticateA | authenticateB =>
    unfold startAuthenticate
    split <;> exact h
  all_goals exact h

/-- A step from `IDLE` does not lead to `Colliding`. -/
theorem step_idle_not_colliding {s t : State} (hs : s.seq = .idle) (h : s.sel.state ≠ .colliding)
    (ht : step s = .next t) : t.sel.state ≠ .colliding := by
  simp only [step, hs, if_true] at ht
  split at ht
  · cases ht
    exact h
  next o rest _ =>
    unfold takeOffer at ht
    dsimp only at ht
    split at ht
    next => exact exec_not_colliding (s := { s with host := { s.host with port := rest } }) h ht
    next => cases ht; nofun
    next => cases ht

/-! ## The transitions -/

/-- The collision read leads to the next probe or ends `select`. -/
theorem step_from_collision {s t : State} (hinv : StateInv s) (hs : s.seq = .r209)
    (ht : step s = .next t) : t.sel.state = .probing ∨ t.sel.state = .idle := by
  have hstack : s.stack ∈ selectCallers := by
    have hchain := hinv.chain
    rwa [hs] at hchain
  have hends : ∀ r u, u.stack = s.stack → (settle (.done r u)).sel.state = .idle := by
    intro r u hu
    rw [settle_done, hu, unwind_selectCallers hstack]
    rfl
  have hlabel : stepLabel s = collisionRead s := by simp only [stepLabel, hs]
  rw [step_busy (hs ▸ nofun), advance, hlabel] at ht
  cases ht
  refine onTx_ind (P := fun f => (settle f).sel.state = .probing ∨ (settle f).sel.state = .idle)
    (fun bs _ _ => ?_) fun _ => .inr (hends _ _ rfl)
  dsimp only
  split
  · exact .inr (hends _ _ rfl)
  · exact .inl rfl

/-- The four states of R222 that a step can begin or end in. -/
theorem selStateAt_mem (l : Seq) (stack : List Ret) :
    selStateAt l stack ∈ [.idle, .probing, .colliding, .selecting] := by
  unfold selStateAt
  split
  · decide
  · split
    · decide
    · split <;> decide

theorem selStateAt_eq_colliding {l : Seq} {stack : List Ret} :
    selStateAt l stack = .colliding ↔ l = .r209 := by
  unfold selStateAt
  split
  next h => simp [h]
  next h =>
    simp only [h, iff_false]
    split
    · nofun
    · split <;> nofun

theorem selStateAt_eq_probing {l : Seq} {stack : List Ret} (hl : l ≠ .r209) (h : .r206 ∈ stack) :
    selStateAt l stack = .probing := by
  rw [selStateAt, if_neg hl, if_pos h]

/-- `Colliding` is entered from `Probing` alone. -/
theorem step_into_collision {s t : State} (hinv : StateInv s) (ht : step s = .next t)
    (hcoll : t.sel.state = .colliding) (hne : s.sel.state ≠ .colliding) : s.sel.state = .probing := by
  have hseq : s.seq ≠ .r209 := fun h => hne (hinv.selState.trans (selStateAt_eq_colliding.mpr h))
  by_cases hidle : s.seq = .idle
  · exact absurd hcoll (step_idle_not_colliding hidle hne ht)
  · by_cases hprobe : .r206 ∈ s.stack
    · exact hinv.selState.trans (selStateAt_eq_probing hseq hprobe)
    · rw [step_busy hidle] at ht
      cases ht
      exact absurd hcoll (advance_not_colliding hseq hprobe hne)

/-- Settles O24: of the changes between the four states of the invariant, those into and out of
`Colliding` are restricted, and every other one is a transition. -/
theorem selStateTransitions : Obligations.SelStateTransitions := by
  unfold Obligations.SelStateTransitions
  intro s t hinv ht hne
  obtain ⟨hinv', -⟩ := stepKeepsInv s t hinv ht
  have hs := selStateAt_mem s.seq s.stack
  have ht' := selStateAt_mem t.seq t.stack
  have hinto : t.sel.state = .colliding → s.sel.state ≠ .colliding → s.sel.state = .probing :=
    step_into_collision hinv ht
  have hfrom : s.sel.state = .colliding → t.sel.state = .probing ∨ t.sel.state = .idle := fun h =>
    step_from_collision hinv (selStateAt_eq_colliding.mp (hinv.selState.symm.trans h)) ht
  rw [← hinv.selState] at hs
  rw [← hinv'.selState] at ht'
  generalize s.sel.state = a at *
  generalize t.sel.state = b at *
  revert a b
  decide

end Sys2Proof.Machine
end

section
/-! The operation in progress, between its start and its end: what the nested runs of Laws/Exchanges.lean
leave of the ports and the host's side, put together run by run. -/

namespace Sys2Proof.Machine

/-- The operation in progress has gone on from `s` to `m` by the transactions and samples `events`, has
kept its arguments and has handed the host nothing; `rest` of the environment's answers is left. -/
structure Progress (s m : State) (events : List Event) (rest : List Answer) : Prop where
  cfg : m.cfg = s.cfg
  op : m.op = s.op
  host : m.host = s.host
  hint : m.arg.uidHint = s.arg.uidHint
  specific : m.arg.specific = s.arg.specific
  log : m.log = events ++ s.log
  chip : m.chip = chipAfter s.cfg s.chip events
  answers : m.env.answers = rest

theorem Progress.trans {s m t : State} {events events' : List Event} {rest rest' : List Answer}
    (h : Progress s m events rest) (h' : Progress m t events' rest') :
    Progress s t (events' ++ events) rest' where
  cfg := h'.cfg.trans h.cfg
  op := h'.op.trans h.op
  host := h'.host.trans h.host
  hint := h'.hint.trans h.hint
  specific := h'.specific.trans h.specific
  log := by rw [h'.log, h.log, List.append_assoc]
  chip := by rw [chipAfter_append, h'.chip, h.chip, h.cfg]
  answers := h'.answers

/-- An operation that was latched in `s` and has gone on to `m` ends there. -/
theorem Progress.ends {s m : State} {op : Byte} {ports : Args} {events : List Event}
    {rest : List Answer} {r r' : Res} (h : Progress (s.latched op ports) m events rest)
    (hr : portResult op r = r') : Ends s (deliver r m) r' events rest ∧ HostKept s (deliver r m) :=
  have hhost : m.host = { s.host with result := none } := h.host
  have hop : m.op = op := h.op
  ⟨deliver_ends h.cfg (by rw [hhost]) (hop ▸ hr) h.log h.chip h.answers,
    deliver_hostKept r (by rw [hhost]) (by rw [hhost]) (by rw [hhost])⟩

/-! ## The nested runs as progress -/

theorem CrcRun.progress {s m : State} {x : CrcReads} {rest : List Answer} (h : CrcRun s m x rest) :
    Progress s m (crcEvents s.cfg s.arg.buffer x m.env.now) rest :=
  { h with hint := by rw [h.arg], specific := by rw [h.arg] }

theorem SendRun.progress {s m : State} {x : ExReads} {rest : List Answer} (h : SendRun s m x rest) :
    Progress s m
      (sendEvents s.cfg s.arg.cmd s.reg.txb s.arg.rxAlign s.arg.txLastBits x m.env.now) rest :=
  { h with hint := by rw [h.arg], specific := by rw [h.arg] }

theorem SilentRun.progress {s m : State} {x : ExReads} {rest : List Answer}
    (h : SilentRun s m x rest) :
    Progress s m
      (silentEvents s.cfg s.arg.cmd s.reg.txb s.arg.rxAlign s.arg.txLastBits x m.env.now) rest :=
  { h with hint := by rw [h.arg], specific := by rw [h.arg] }

theorem setRecvBytes_host {s : State} (h : s.recvTarget ≠ .host) (bs : List Byte) :
    (setRecvBytes bs s).host = s.host := by
  unfold setRecvBytes
  split
  case h_2 htarget => exact absurd htarget h
  all_goals rfl

/-- An exchange into a buffer of the block hands the host nothing. -/
theorem ExchangeRun.progress {s m : State} {x : ExReads} {rest : List Answer}
    (h : ExchangeRun s m x rest) (htarget : s.recvTarget ≠ .host) :
    Progress s m
      (exchangeEvents s.cfg s.arg.cmd s.reg.txb s.arg.rxAlign s.arg.txLastBits x m.env.now) rest := by
  obtain ⟨hcfg, hport, hresult, hbuf, hlen, hlast, hop, harg, -, -, -, -, -, hanswers, hchip, hlog⟩ := h
  rw [setRecvBytes_host htarget] at hbuf
  rw [if_neg htarget] at hlen hlast
  have hhost : m.host = s.host := by
    calc m.host = ⟨m.host.port, m.host.result, m.host.buf, m.host.recvLen, m.host.rxLastBits⟩ := rfl
      _ = s.host := by rw [hport, hresult, hbuf, hlen, hlast]
  exact ⟨hcfg, hop, hhost, by rw [harg], by rw [harg], hlog, hchip, hanswers⟩

/-! ## What an exchange has received -/

theorem receivedInto_zero (old d : List Byte) : receivedInto 0 old d = overlay old d := by
  cases d <;> rfl

/-- What is laid over the receive window of a probe, as long as it is, is what the window then holds. -/
theorem overlayAt_window {buf bs : List Byte} {off : Nat}
    (h : bs.length = ((buf.take 7).drop off).length) :
    ((overlayAt buf (min off 7) bs).take 7).drop off = bs := by
  rcases Nat.eq_zero_or_pos bs.length with hzero | hpos
  · rw [List.length_eq_zero_iff.mp hzero, overlayAt_of_prefix (List.nil_prefix), ← List.length_eq_zero_iff,
      ← h, hzero]
  · rw [List.length_drop, List.length_take] at h
    have hmin : min off 7 = off := by omega
    have hoff : (buf.take off).length = off := by rw [List.length_take]; omega
    have hfit : bs.length ≤ (buf.drop off).length := by rw [List.length_drop]; omega
    rw [hmin, overlayAt, overlay, List.take_of_length_le hfit, List.drop_take, List.drop_left' hoff,
      List.drop_drop, List.take_append, List.take_of_length_le (by omega)]
    refine (List.append_right_eq_self).mpr (List.take_eq_nil_iff.mpr ?_)
    rw [List.drop_eq_nil_iff]
    omega

/-- A frame stored in a receive buffer of its length is what the buffer then holds. -/
theorem recvBytes_setRecvBytes {s : State} {bs : List Byte} (htarget : s.recvTarget ≠ .absent)
    (h : bs.length = (recvBytes s).length) : recvBytes (setRecvBytes bs s) = bs := by
  obtain ⟨cfg, host, op, arg, prim, target, seq, stack, reg, sel, chip, env, log⟩ := s
  cases target with
  | absent => exact absurd rfl htarget
  | window idx => exact overlayAt_window h
  | _ => rfl

/-- The receive buffers are a part of the host's side, of the Select engine's registers and ACKB. -/
theorem recvBytes_congr {s m : State} (htarget : m.recvTarget = s.recvTarget)
    (hhost : m.host.buf = s.host.buf) (hsel : m.sel = s.sel) (hackb : m.reg.ackb = s.reg.ackb) :
    recvBytes m = recvBytes s := by
  unfold recvBytes
  rw [htarget, hhost, hsel, hackb]

theorem ExchangeRun.recvBytes {s m : State} {x : ExReads} {rest : List Answer}
    (h : ExchangeRun s m x rest) (htarget : s.recvTarget ≠ .absent) :
    recvBytes m = receivedInto s.arg.rxAlign (Machine.recvBytes s) x.bytes := by
  have hstored := recvBytes_setRecvBytes htarget
    (receivedInto_length s.arg.rxAlign (Machine.recvBytes s) x.bytes)
  rw [← hstored]
  exact recvBytes_congr (h.recvTarget.trans (setRecvBytes_recvTarget _ _).symm) h.buf h.sel
    (by rw [h.reg])

end Sys2Proof.Machine
end

section
/-! An exchange into a buffer of the block, from its first step to its result, and the short and
anti-collision frames on their own (42_executor R160 to R176, 43_select R193, R194, R205, R206). -/

namespace Sys2Proof.Machine

/-- The receive buffer of the exchange is one of the block's own (10_state R23). -/
structure OwnBuffer (target : RecvTarget) : Prop where
  present : target ≠ .absent
  notHost : target ≠ .host

theorem atqa_ownBuffer : OwnBuffer .atqa := ⟨nofun, nofun⟩
theorem sakb_ownBuffer : OwnBuffer .sakb := ⟨nofun, nofun⟩
theorem window_ownBuffer (idx : Nat) : OwnBuffer (.window idx) := ⟨nofun, nofun⟩

/-- An exchange into a buffer of the block without CRC check and without collision. -/
theorem uncheckedExchange_run {s : State} {x : ExReads} {rest : List Answer} (hseq : s.seq = .r161)
    (hd : x.Completes s.cfg s.arg.waitFlags) (hcheck : s.arg.checkCrc = false)
    (htarget : OwnBuffer s.recvTarget) (hf : x.Fits s.cfg (recvBytes s).length)
    (ha : s.env.answers = exchangeAnswers s.cfg s.arg.cmd s.reg.txb x ++ rest) :
    ∃ m, Reaches ((exchangeAnswers s.cfg s.arg.cmd s.reg.txb x).length + 1) s
        (unwind s.stack (.ok (.received x.bytes.length
          (receivedInto s.arg.rxAlign (recvBytes s) x.bytes) (rxLastCount s.cfg x.control))) m) ∧
      Progress s m
        (exchangeEvents s.cfg s.arg.cmd s.reg.txb s.arg.rxAlign s.arg.txLastBits x m.env.now) rest ∧
      m.sel = (setRecvBytes (receivedInto s.arg.rxAlign (recvBytes s) x.bytes) s).sel := by
  obtain ⟨hpoll, hproto, hcoll⟩ := hd
  obtain ⟨m, hrun, h⟩ := exchange_run hseq hpoll htarget.present hproto hf ha
  rw [exClassify_unchecked (by rw [h.cfg, h.reg]; exact hcoll) (.inl (by rw [h.arg, hcheck])),
    h.recvBytes htarget.present, settle_done, h.stack, h.reg] at hrun
  exact ⟨m, hrun, h.progress htarget.notHost, h.sel⟩

/-! ## A frame on its own -/

/-- The state in which a frame of the Select engine on its own has been latched, with the engine's
registers `sel` (log 8, log 24). -/
def frameAt (sel : SelectRegs) (send : List Byte) (target : RecvTarget) (bits : Nat) (rxAlign : Nat)
    (s : State) : State :=
  goto .r161 (latchTransceive send target bits rxAlign false { s.latched 0 { } with sel := sel })

/-- Such a frame completes with the answer in its buffer. -/
theorem frameAt_completes {i : Instr} {s : State} {sel : SelectRegs} {send old : List Byte}
    {target : RecvTarget} {bits rxAlign : Nat} {x : ExReads} {rest : List Answer}
    (hi : exec i s = .next (frameAt sel send target bits rxAlign s)) (htarget : OwnBuffer target)
    (hold : recvBytes (frameAt sel send target bits rxAlign s) = old)
    (hd : x.Completes s.cfg (transceiveFlags s.cfg)) (hf : x.Fits s.cfg old.length)
    (ha : s.env.answers = exchangeAnswers s.cfg s.cfg.cmdTransceive send x ++ rest) :
    ∃ t, RunsTo i s ((exchangeAnswers s.cfg s.cfg.cmdTransceive send x).length + 1) t ∧
      Ends s t
        (.ok (.received x.bytes.length (receivedInto rxAlign old x.bytes)
          (rxLastCount s.cfg x.control)))
        (exchangeEvents s.cfg s.cfg.cmdTransceive send rxAlign bits x t.env.now) rest ∧
      HostKept s t := by
  subst hold
  obtain ⟨m, hrun, hm, -⟩ :=
    uncheckedExchange_run (s := frameAt sel send target bits rxAlign s) rfl hd rfl htarget hf ha
  have hm' : Progress (s.latched 0 { }) m
      (exchangeEvents s.cfg s.cfg.cmdTransceive send rxAlign bits x m.env.now) rest := { hm with }
  exact ⟨_, ⟨_, hi, hrun⟩, hm'.ends (portResult_zero _)⟩

/-- Settles O47: both are latched with ATQA cleared, into which an answer is laid whole. -/
theorem shortFramesComplete : Obligations.ShortFramesComplete := by
  unfold Obligations.ShortFramesComplete
  intro s i b x rest hs hi hd hf ha
  have hexec : exec i s = .next (frameAt { s.sel with atqa := [0, 0] } [b] .atqa 7 0 s) := by
    rcases hi with ⟨rfl, rfl⟩ | ⟨rfl, rfl⟩
    · rw [exec, execReqa, accept_idle hs]; rfl
    · rw [exec, execWupa, accept_idle hs]; rfl
  rw [← receivedInto_zero]
  exact frameAt_completes hexec atqa_ownBuffer rfl hd hf ha

/-- The engine's registers in a probe of its own (43_select R201, R205; log 24). -/
def probeRegs (c : Config) (level kb : Nat) (known : List Byte) (r : SelectRegs) : SelectRegs :=
  { r with
    level := level, kb := kb, att := 1, collpos := 0
    buf := (overlayAt [c.selCl level, 0, 0, 0, 0, 0, 0, 0, 0] 2 known).set 1 (nvbOf kb) }

theorem probeFrame_eq (level kb : Nat) (known : List Byte) (s : State) :
    probeFrame level kb known (s.latched 0 { }) =
      .running (frameAt (probeRegs s.cfg level kb known s.sel)
        ((probeRegs s.cfg level kb known s.sel).buf.take (probeLen kb)) (.window (probeWindow kb))
        (kb % 8) (kb % 8) s) := rfl

/-- The frame buffer of a probe on its own: the frame, zeros up to the five bytes of a candidate, and the
two behind it. -/
theorem probeRegs_buf (c : Config) (level kb : Nat) {known : List Byte} (h : known.length ≤ 5)
    (r : SelectRegs) : (probeRegs c level kb known r).buf =
      c.selCl level :: nvbOf kb :: (known ++ List.replicate (5 - known.length) 0 ++ [0, 0]) := by
  have hsplit : 7 - known.length = 5 - known.length + 2 := by omega
  have hoverlay : (probeRegs c level kb known r).buf =
      c.selCl level :: nvbOf kb :: (known.take 7 ++ (List.replicate 7 0).drop known.length) := rfl
  rw [hoverlay, List.take_of_length_le (by omega), List.drop_replicate, hsplit, List.replicate_add,
    List.append_assoc]
  rfl

/-- Settles O48: the frame and the window of the three are parts of the one frame buffer. -/
theorem anticollFramesComplete : Obligations.AnticollFramesComplete := by
  unfold Obligations.AnticollFramesComplete
  rintro s i l kb known frame window x rest hs hi hwf rfl rfl hd hf ha
  obtain ⟨hkb, hlen⟩ := knownWf_iff.mp hwf
  have hbuf := probeRegs_buf s.cfg l kb (known := known) (by omega) s.sel
  have hcandidate : (known ++ List.replicate (5 - known.length) 0).length = 5 := by
    rw [List.length_append, List.length_replicate]
    omega
  have hframe : (probeRegs s.cfg l kb known s.sel).buf.take (probeLen kb) =
      s.cfg.selCl l :: nvbOf kb :: known := by
    rw [hbuf, probeLen, ← hlen, Nat.add_comm]
    simp
  have hexec : exec i s = .next (frameAt (probeRegs s.cfg l kb known s.sel)
      (s.cfg.selCl l :: nvbOf kb :: known) (.window (probeWindow kb)) (kb % 8) (kb % 8) s) := by
    rw [← hframe]
    rcases hi with ⟨rfl, rfl⟩ | ⟨rfl, rfl⟩ | ⟨rfl, rfl⟩
    · rw [exec, execAnticollCl1, accept_idle hs, probeFrame_eq, land_running]
    · rw [exec, execAnticollCl2, accept_idle hs, probeFrame_eq, land_running]
    · rw [exec, execAnticollCl3, accept_idle hs, probeFrame_eq, land_running]
  refine frameAt_completes hexec (window_ownBuffer _) ?window hd hf ha
  case window =>
    have htake := take_seven (sel := s.cfg.selCl l) (nvb := nvbOf kb) (behind := [0, 0]) hcandidate
    rw [← hbuf] at htake
    exact congrArg (List.drop (probeWindow kb)) htake

end Sys2Proof.Machine
end

section
/-! The SELECT: the CRC of its frame, the exchange and the CRC check of its answer (43_select R213 to R216),
and the SELECT frames on their own. -/

namespace Sys2Proof.Machine

/-! ## An exchange whose answer carries its CRC -/

section
variable {c : Config} {k : CrcReads} {data old : List Byte}

theorem frame_length : (k.frame c data).length = data.length + 2 := by simp [CrcReads.frame, crcBytes]

/-- The verdict on bytes that end with their CRC is `Ok`. -/
theorem crcVerdict_frame (hfit : (k.frame c data).length ≤ old.length) (rxlast : Nat) :
    crcVerdict (k.frame c data).length (overlay old (k.frame c data)) rxlast (k.value c) =
      .ok (.received (k.frame c data).length (overlay old (k.frame c data)) rxlast) := by
  have hlen := frame_length (c := c) (k := k) (data := data)
  refine if_pos ⟨?low, ?high⟩
  case low =>
    rw [overlay_getD_of_lt hfit (by omega), hlen]
    simp [CrcReads.frame, crcBytes]
  case high =>
    rw [overlay_getD_of_lt hfit (by omega), hlen]
    simp [CrcReads.frame, crcBytes]

/-- Of such bytes the CRC is computed over those before it. -/
theorem take_overlay_frame (hfit : (k.frame c data).length ≤ old.length) :
    (overlay old (k.frame c data)).take ((k.frame c data).length - 2) = data := by
  rw [frame_length, overlay, List.take_of_length_le hfit, CrcReads.frame, List.append_assoc]
  exact List.take_left' rfl

end

section
variable {s m : State} {x : ExReads} {rest : List Answer} (h : ExchangeRun s m x rest)
include h

theorem ExchangeRun.n : m.reg.n = x.bytes.length := by rw [h.reg]

theorem ExchangeRun.rxlast : m.reg.rxlast = rxLastCount s.cfg x.control := by rw [h.reg]

theorem ExchangeRun.errsnap : m.reg.errsnap = x.error := by rw [h.reg]

end

/-- The nested CRC computation of an exchange that was classified in `m` (42_executor R175). -/
theorem nestedCrc_run {m : State} {buffer : List Byte} {k : CrcReads} {rest : List Answer}
    (hk : k.Completes m.cfg) (ha : m.env.answers = crcAnswers m.cfg buffer k ++ rest) :
    ∃ n, Reaches ((crcAnswers m.cfg buffer k).length + 1) (settle (callCrc .r175 buffer m))
        (unwind m.stack (crcVerdict m.reg.n (recvBytes m) m.reg.rxlast (k.value m.cfg)) n) ∧
      Progress m n (crcEvents m.cfg buffer k n.env.now) rest ∧ n.sel = m.sel ∧ n.stack = m.stack := by
  obtain ⟨n, hrun, h⟩ := crc_run (s := settle (callCrc .r175 buffer m)) rfl hk ha
  have hstack : (settle (callCrc .r175 buffer m)).stack = .r175 :: m.stack := rfl
  rw [hstack, unwind_exCrcDone, h.recvBytes, h.reg] at hrun
  exact ⟨_, hrun, { h.progress with }, h.sel, rfl⟩

/-- An exchange into a buffer of the block, whose answer is `data` with its CRC, which is checked
(42_executor R160 to R176). -/
theorem checkedExchange_run {s : State} {x : ExReads} {k : CrcReads} {data : List Byte}
    {rest : List Answer} (hseq : s.seq = .r161) (hd : x.Completes s.cfg s.arg.waitFlags)
    (hcheck : s.arg.checkCrc = true) (halign : s.arg.rxAlign = 0) (htarget : OwnBuffer s.recvTarget)
    (hf : x.Fits s.cfg (recvBytes s).length) (hbytes : x.bytes = k.frame s.cfg data)
    (hwhole : rxLastCount s.cfg x.control = 0) (hk : k.Completes s.cfg)
    (ha : s.env.answers = checkedAnswers s.cfg s.arg.cmd s.reg.txb x data k ++ rest) :
    ∃ n t m, Reaches n s
        (unwind s.stack (.ok (.received x.bytes.length (overlay (recvBytes s) x.bytes) 0)) m) ∧
      Progress s m
        (checkedEvents s.cfg s.arg.cmd s.reg.txb s.arg.rxAlign s.arg.txLastBits x t data k m.env.now)
        rest ∧
      m.sel = (setRecvBytes (overlay (recvBytes s) x.bytes) s).sel ∧ m.stack = s.stack := by
  obtain ⟨hpoll, hproto, hcoll⟩ := hd
  have hcap := hf.2
  rw [checkedAnswers, List.append_assoc] at ha
  obtain ⟨m, hrun, h⟩ := exchange_run hseq hpoll htarget.present hproto hf ha
  have hgot := h.recvBytes htarget.present
  have hprogress := h.progress htarget.notHost
  have hsel := h.sel
  rw [halign, receivedInto_zero] at hgot hsel
  rw [hbytes] at hcap
  have hlen : 2 ≤ m.reg.n := by rw [h.n, hbytes, frame_length]; omega
  rw [exClassify_checked (by rw [h.cfg, h.errsnap]; exact hcoll) (by rw [h.arg, hcheck])
    (by rw [h.recvTarget]; exact htarget.present) hlen (by rw [h.rxlast, hwhole]), hgot, h.n, hbytes,
    take_overlay_frame hcap] at hrun
  obtain ⟨m', hcrc, h', hsel', hstack'⟩ :=
    nestedCrc_run (m := m) (buffer := data) (k := k) (rest := rest) (by rw [h.cfg]; exact hk)
      (by rw [h.cfg]; exact h.answers)
  rw [hgot, h.n, h.rxlast, h.stack, h.cfg, hbytes, hwhole, crcVerdict_frame hcap, ← hbytes] at hcrc
  rw [h.cfg] at h'
  exact ⟨_, m.env.now, m', reaches_trans hrun hcrc, hprogress.trans h', hsel'.trans hsel,
    hstack'.trans h.stack⟩

end Sys2Proof.Machine
end

section
/-! The SELECT frame: its CRC, its exchange, the SAK (43_select R213 to R216); and the frames on their own. -/

namespace Sys2Proof.Machine

/-- What the SELECT of a level reads: the CRC of its frame, the exchange whose answer is `data` with its
CRC, the CRC check. -/
structure SelectOk (c : Config) (k₁ : CrcReads) (x : ExReads) (data : List Byte) (k₂ : CrcReads) :
    Prop where
  crc : k₁.Completes c
  select : x.Completes c (transceiveFlags c)
  fits : x.Fits c 3
  answer : x.bytes = k₂.frame c data
  whole : rxLastCount c x.control = 0
  check : k₂.Completes c

section
variable {k₁ k₂ : CrcReads} {x : ExReads} {data payload : List Byte} {rest : List Answer}

/-- The SELECT exchange as latched, from its first step to its checked answer (43_select R214, R215). -/
theorem latchSelect_run {w : State} {send : List Byte} (h : SelectOk w.cfg k₁ x data k₂)
    (hsend : overlayAt w.sel.buf 7 (crcBytes w.reg.crc) = send)
    (ha : w.env.answers = checkedAnswers w.cfg w.cfg.cmdTransceive send x data k₂ ++ rest) :
    ∃ n t m, Reaches n (goto .r161 (latchSelect w))
        (unwind w.stack (.ok (.received x.bytes.length (overlay [0, 0, 0] x.bytes) 0)) m) ∧
      Progress w m (checkedEvents w.cfg w.cfg.cmdTransceive send 0 0 x t data k₂ m.env.now) rest ∧
      m.sel = { w.sel with buf := send, sakb := overlay [0, 0, 0] x.bytes } ∧ m.stack = w.stack := by
  subst hsend
  obtain ⟨n, t, m, hrun, hm, hsel, hstack⟩ :=
    checkedExchange_run (s := goto .r161 (latchSelect w)) rfl h.select rfl rfl sakb_ownBuffer h.fits
      h.answer h.whole h.check ha
  exact ⟨n, t, m, hrun, { hm with }, hsel, hstack⟩

/-- The frame of the SELECT is its payload and the CRC, which the frame buffer takes (43_select R213). -/
theorem overlayAt_crc (hlen : payload.length = 7) (w : Word16) :
    overlayAt (payload ++ [0, 0]) 7 (crcBytes w) = payload ++ crcBytes w := by
  rw [overlayAt, List.take_left' hlen, List.drop_left' hlen]
  rfl

/-- The SELECT from its CRC on: the rule `l` takes the CRC and sends the frame, whose result goes to
`callers` (43_select R213 to R216). -/
theorem select_run {q : State} {l : Ret} {below callers : List Ret} (hseq : q.seq = .r141)
    (hstack : q.stack = l :: below)
    (hl : ∀ (v : Value) (m : State), resume l (.ok v) { m with stack := below } =
      .running (goto .r161 (latchSelect { m with stack := callers })))
    (hbuffer : q.arg.buffer = payload) (hbuf : q.sel.buf = payload ++ [0, 0])
    (hlen : payload.length = 7) (h : SelectOk q.cfg k₁ x data k₂)
    (ha : q.env.answers = crcAnswers q.cfg payload k₁ ++
      (checkedAnswers q.cfg q.cfg.cmdTransceive (k₁.frame q.cfg payload) x data k₂ ++ rest)) :
    ∃ n t₁ t₂ m, Reaches n q
        (unwind callers (.ok (.received x.bytes.length (overlay [0, 0, 0] x.bytes) 0)) m) ∧
      Progress q m
        (checkedEvents q.cfg q.cfg.cmdTransceive (k₁.frame q.cfg payload) 0 0 x t₂ data k₂ m.env.now ++
          crcEvents q.cfg payload k₁ t₁) rest ∧
      m.sel = { q.sel with buf := k₁.frame q.cfg payload, sakb := overlay [0, 0, 0] x.bytes } ∧
      m.stack = callers := by
  subst hbuffer
  obtain ⟨m, hcrc, hm⟩ := crc_run hseq h.crc ha
  rw [hstack, unwind_running (hl _ m)] at hcrc
  have hsend : overlayAt m.sel.buf 7 (crcBytes m.reg.crc) = k₁.frame q.cfg q.arg.buffer := by
    rw [hm.sel, hbuf, hm.crc, overlayAt_crc hlen]
    rfl
  obtain ⟨n, t, m', hrun, hm', hsel, hcallers⟩ :=
    latchSelect_run (w := { m with stack := callers }) (k₁ := k₁) (k₂ := k₂) (x := x) (data := data)
      (rest := rest) (by rw [hm.cfg]; exact h) hsend (by rw [hm.cfg]; exact hm.answers)
  have hprogress : Progress m m' _ _ := { hm' with }
  rw [hm.cfg] at hprogress
  rw [hm.sel] at hsel
  exact ⟨_, _, t, m', reaches_trans hcrc hrun, hm.progress.trans hprogress, hsel, hcallers⟩

end

/-! ## A SELECT on its own -/

/-- The state in which a SELECT frame on its own has been issued (log 8, log 24). -/
def selectAt (level : Nat) (b0 b1 b2 b3 bcc : Byte) (s : State) : State :=
  settle (selectFrame level [b0, b1, b2, b3, bcc] (s.latched 0 { }))

/-- Settles O49: the three run `select_run` with no rule above the exchange. -/
theorem selectFramesComplete : Obligations.SelectFramesComplete := by
  unfold Obligations.SelectFramesComplete
  rintro s i l b0 b1 b2 b3 bcc payload data k₁ k₂ x rest hs hi rfl hk₁ hd hf hbytes hwhole hk₂ ha
  have hexec : exec i s = .next (selectAt l b0 b1 b2 b3 bcc s) := by
    rcases hi with ⟨rfl, rfl⟩ | ⟨rfl, rfl⟩ | ⟨rfl, rfl⟩
    · rw [exec, execSelectCl1, accept_idle hs]; rfl
    · rw [exec, execSelectCl2, accept_idle hs]; rfl
    · rw [exec, execSelectCl3, accept_idle hs]; rfl
  have hok : SelectOk s.cfg k₁ x data k₂ := ⟨hk₁, hd, hf, hbytes, hwhole, hk₂⟩
  obtain ⟨n, t₁, t₂, m, hrun, hm, -, -⟩ :=
    select_run (q := selectAt l b0 b1 b2 b3 bcc s) (callers := []) rfl rfl (fun _ _ => rfl) rfl rfl rfl
      hok ha
  have hm' : Progress (s.latched 0 { }) m _ rest := { hm with }
  exact ⟨n, t₁, t₂, _, ⟨_, hexec, hrun⟩, hm'.ends (portResult_zero _)⟩

end Sys2Proof.Machine
end

section
/-! One cascade level of `select`, from its start to the answer of its SELECT (43_select R201 to R216). -/

namespace Sys2Proof.Machine

/-- The UID a `select` in progress knows beforehand is `hint`, when `specific` (43_select R202). -/
def Hinted (hint : Option Uid) (s : State) : Prop :=
  match hint with
  | none => s.arg.specific = false
  | some u => s.arg.specific = true ∧ s.arg.uidHint = some u

theorem Hinted.of_args {hint : Option Uid} {s m : State} (h : Hinted hint s)
    (hhint : m.arg.uidHint = s.arg.uidHint) (hspecific : m.arg.specific = s.arg.specific) :
    Hinted hint m := by
  unfold Hinted
  rw [hhint, hspecific]
  exact h

theorem LevelReads.candidate_length (r : LevelReads) (hint : Option Uid) (l : Nat) :
    (r.candidate hint l).length = 5 := by
  cases hint with
  | none => exact overlay_length _ _
  | some u => exact knownCandidate_length u l

theorem LevelReads.payload_length (r : LevelReads) (c : Config) (hint : Option Uid) (l : Nat) :
    (r.payload c hint l).length = 7 := by
  rw [LevelReads.payload, List.length_cons, List.length_cons, r.candidate_length]

theorem LevelReads.Ok.selectOk {r : LevelReads} {c : Config} (h : r.Ok c) :
    SelectOk c r.crc r.select [r.sak] r.check :=
  ⟨h.crc, h.select, h.selectFits, h.answer, h.whole, h.check⟩

/-- In `q` the SELECT of the level begun in `s` waits for the CRC of its `payload` (43_select R212, R213). -/
structure SelectPending (s q : State) (payload : List Byte) : Prop where
  seq : q.seq = .r141
  stack : q.stack = .r213 :: s.stack
  buffer : q.arg.buffer = payload
  buf : q.sel.buf = payload ++ [0, 0]
  level : q.sel.level = s.sel.level
  uidAcc : q.sel.uidAcc = s.sel.uidAcc

section
variable {r : LevelReads} {s : State} {rest : List Answer}

/-- A level whose bytes are known waits for that CRC at once. -/
theorem knownSelect_pending {u : Uid} (hu : s.arg.uidHint = some u) :
    SelectPending s (knownSelect s) (r.payload s.cfg (some u) s.sel.level) where
  seq := rfl
  stack := rfl
  buffer := by rw [knownSelect_buffer, hu]; rfl
  buf := by rw [knownSelect_sel, hu]; rfl
  level := rfl
  uidAcc := rfl

theorem recvBytes_latchProbe (s : State) :
    recvBytes (latchProbe s) = ((latchProbe s).sel.buf.take 7).drop (probeWindow s.sel.kb) := rfl

theorem recvBytes_firstProbe (s : State) : recvBytes (firstProbe s) = [0, 0, 0, 0, 0] :=
  (recvBytes_latchProbe (setSelState .probing (levelInit s))).trans
    (congrArg (fun sel => (sel.buf.take 7).drop (probeWindow 0)) (firstProbe_sel s))

theorem latchProbe_recvTarget {s : State} {kb : Nat} (h : s.sel.kb = kb) :
    (latchProbe s).recvTarget = .window (probeWindow kb) := h ▸ rfl

/-- What a first probe brought is the candidate of its level, laid over zeros (43_select R206). -/
theorem setRecvBytes_firstProbe_sel (bs : List Byte) (s : State) :
    (setRecvBytes bs (firstProbe s)).sel =
      { (firstProbe s).sel with
        buf := overlayAt [s.cfg.selCl s.sel.level, nvbOf 0, 0, 0, 0, 0, 0, 0, 0] 2 bs } := by
  have htarget : (firstProbe s).recvTarget = .window 2 :=
    latchProbe_recvTarget (s := setSelState .probing (levelInit s)) (kb := 0) rfl
  rw [setRecvBytes, htarget, firstProbe_sel]
  rfl

/-- A probe that does not collide leads there (43_select R204 to R207). -/
theorem firstProbe_run (hd : r.probe.Completes s.cfg (transceiveFlags s.cfg))
    (hf : r.probe.Fits s.cfg 5)
    (ha : s.env.answers =
      exchangeAnswers s.cfg s.cfg.cmdTransceive [s.cfg.selCl s.sel.level, nvbOf 0] r.probe ++ rest) :
    ∃ n t q, Reaches n (firstProbe s) q ∧
      Progress s q
        (exchangeEvents s.cfg s.cfg.cmdTransceive [s.cfg.selCl s.sel.level, nvbOf 0] 0 0 r.probe t)
        rest ∧
      SelectPending s q (r.payload s.cfg none s.sel.level) := by
  have htxb := firstProbe_txb s
  have hwindow := recvBytes_firstProbe s
  obtain ⟨m, hrun, hm, hsel⟩ :=
    uncheckedExchange_run (s := firstProbe s) (x := r.probe) (rest := rest) rfl hd rfl
      (window_ownBuffer _) (by rw [hwindow]; exact hf) (by rw [htxb]; exact ha)
  have halign : (firstProbe s).arg.rxAlign = 0 := rfl
  rw [htxb] at hm
  rw [hwindow, halign, receivedInto_zero, setRecvBytes_firstProbe_sel] at hsel
  have hbuf : m.sel.buf.set 1 nvbSelect = r.payload s.cfg none s.sel.level ++ [0, 0] := by
    rw [hsel]
    exact overlayAt_candidate (r.candidate_length none s.sel.level)
  have hselect : unwind (.r206 :: s.stack) (.ok (.received r.probe.bytes.length
      (overlay [0, 0, 0, 0, 0] r.probe.bytes) (rxLastCount s.cfg r.probe.control))) m =
      selecting { m with stack := s.stack } := unwind_running rfl
  have hstack := firstProbe_stack s
  rw [hstack, hwindow, halign, receivedInto_zero] at hrun
  have hrun' := hselect ▸ hrun
  have hlevel : m.sel.level = s.sel.level := by rw [hsel]; rfl
  have hacc : m.sel.uidAcc = s.sel.uidAcc := by rw [hsel]; rfl
  refine ⟨_, m.env.now, _, hrun', ?progress, ?pending⟩
  case progress => exact { hm with }
  case pending =>
    exact {
      seq := rfl
      stack := rfl
      buffer := by
        have hbuffer : (selecting { m with stack := s.stack }).arg.buffer =
          (m.sel.buf.set 1 nvbSelect).take 7 := rfl
        rw [hbuffer, hbuf]
        exact take_seven (r.candidate_length none s.sel.level)
      buf := hbuf
      level := hlevel
      uidAcc := hacc }

/-- A level from its start to the CRC of its SELECT (43_select R201 to R212). -/
theorem level_pending {hint : Option Uid} (hh : Hinted hint s) (h : r.Ok s.cfg)
    (ha : s.env.answers = (if hint.isSome then [] else
      exchangeAnswers s.cfg s.cfg.cmdTransceive [s.cfg.selCl s.sel.level, nvbOf 0] r.probe) ++ rest) :
    ∃ n t q, Reaches n (settle (startLevel s)) q ∧
      Progress s q (if hint.isSome then [] else
        exchangeEvents s.cfg s.cfg.cmdTransceive [s.cfg.selCl s.sel.level, nvbOf 0] 0 0 r.probe t)
        rest ∧
      SelectPending s q (r.payload s.cfg hint s.sel.level) := by
  cases hint with
  | none =>
    rw [startLevel_probing hh, settle_running]
    exact firstProbe_run h.probe h.probeFits ha
  | some u =>
    obtain ⟨hspecific, hu⟩ := hh
    rw [startLevel_specific hspecific, settle_running]
    exact ⟨0, 0, _, reaches_zero _, ⟨rfl, rfl, rfl, rfl, rfl, rfl, rfl, ha⟩, knownSelect_pending hu⟩

/-- In `m` the SELECT of the level begun in `s` was answered (43_select R215, R216). -/
structure LevelAnswered (r : LevelReads) (hint : Option Uid) (s m : State) : Prop where
  sak : m.sel.sakb.getD 0 0 = r.sak
  buf : m.sel.buf = r.crc.frame s.cfg (r.payload s.cfg hint s.sel.level)
  level : m.sel.level = s.sel.level
  uidAcc : m.sel.uidAcc = s.sel.uidAcc

/-- The time samples of the level `l`. -/
def levelTimes (l t₀ t₁ t₂ t₃ i : Nat) : Nat := [t₀, t₁, t₂, t₃].getD (i - 4 * l) 0

theorem LevelReads.events_levelTimes (c : Config) (hint : Option Uid) (l t₀ t₁ t₂ t₃ : Nat) :
    r.events c hint l (levelTimes l t₀ t₁ t₂ t₃) =
      checkedEvents c c.cmdTransceive (r.crc.frame c (r.payload c hint l)) 0 0 r.select t₂ [r.sak]
          r.check t₃ ++
        (crcEvents c (r.payload c hint l) r.crc t₁ ++
          (if hint.isSome then []
           else exchangeEvents c c.cmdTransceive [c.selCl l, nvbOf 0] 0 0 r.probe t₀)) := by
  simp [LevelReads.events, levelTimes]

/-- A level from its start to the answer of its SELECT (43_select R201 to R216). -/
theorem level_run {hint : Option Uid} (hh : Hinted hint s) (h : r.Ok s.cfg)
    (ha : s.env.answers = r.answers s.cfg hint s.sel.level ++ rest) :
    ∃ n tm v m, Reaches n (settle (startLevel s)) (unwind (.r215 :: s.stack) (.ok v) m) ∧
      Progress s m (r.events s.cfg hint s.sel.level tm) rest ∧ LevelAnswered r hint s m := by
  rw [LevelReads.answers, List.append_assoc] at ha
  obtain ⟨n, t₀, q, hprobe, hq, hpending⟩ := level_pending hh h ha
  obtain ⟨n', t₁, t₂, m, hselect, hm, hsel, -⟩ :=
    select_run (callers := .r215 :: s.stack) (data := [r.sak]) (k₁ := r.crc) (k₂ := r.check)
      (rest := rest) (x := r.select) hpending.seq hpending.stack (fun _ _ => rfl) hpending.buffer
      hpending.buf (r.payload_length s.cfg hint s.sel.level) (by rw [hq.cfg]; exact h.selectOk)
      (by rw [hq.answers, hq.cfg, List.append_assoc])
  have htotal := hq.trans hm
  rw [hq.cfg, List.append_assoc, ← LevelReads.events_levelTimes] at htotal
  have hanswered : LevelAnswered r hint s m := by
    constructor
    case sak =>
      rw [hsel, h.answer]
      rfl
    case buf => rw [hsel, hq.cfg]
    case level => rw [hsel]; exact hpending.level
    case uidAcc => rw [hsel]; exact hpending.uidAcc
  exact ⟨_, _, _, m, reaches_trans hprobe hselect, htotal, hanswered⟩

end

end Sys2Proof.Machine
end

section
/-! The cascade levels of `select` in order, and `select` as a whole (43_select R199 to R220). -/

namespace Sys2Proof.Machine

/-! ## The levels in order -/

/-- Only the candidate bytes of the frame buffer go into the UID. -/
theorem levelUidBytes_append {buf behind : List Byte} (h : buf.length = 7) :
    levelUidBytes (buf ++ behind) = levelUidBytes buf := by
  obtain ⟨b0, b1, b2, b3, b4, b5, b6, rfl⟩ :
      ∃ b0 b1 b2 b3 b4 b5 b6, buf = [b0, b1, b2, b3, b4, b5, b6] := by
    match buf, h with
    | [b0, b1, b2, b3, b4, b5, b6], _ => exact ⟨b0, b1, b2, b3, b4, b5, b6, rfl⟩
  rfl

/-- The bytes a level copies are those of its payload (43_select R217). -/
theorem LevelAnswered.copyLevel_bytes {r : LevelReads} {hint : Option Uid} {s m : State}
    (h : LevelAnswered r hint s m) {u : Uid} (hu : u.bytes = s.sel.uidAcc.bytes) :
    (copyLevel m.sel.level m.sel.buf m.sel.uidAcc).bytes =
      (copyLevel s.sel.level (r.payload s.cfg hint s.sel.level) u).bytes := by
  have hbytes := levelUidBytes_append (behind := crcBytes (r.crc.value s.cfg))
    (r.payload_length s.cfg hint s.sel.level)
  rw [h.level, h.buf, h.uidAcc, CrcReads.frame, copyLevel, copyLevel, hbytes, hu]

theorem LevelReads.events_congr {r : LevelReads} {c : Config} {hint : Option Uid} {l : Nat}
    {tm tm' : Nat → Nat} (h : ∀ i, 4 * l ≤ i → i < 4 * (l + 1) → tm i = tm' i) :
    r.events c hint l tm = r.events c hint l tm' := by
  rw [LevelReads.events, LevelReads.events, h (4 * l) (by omega) (by omega),
    h (4 * l + 1) (by omega) (by omega), h (4 * l + 2) (by omega) (by omega),
    h (4 * l + 3) (by omega) (by omega)]

theorem levelsEvents_congr {c : Config} {hint : Option Uid} {tm tm' : Nat → Nat}
    {ls : List LevelReads} {l : Nat} (h : ∀ i, 4 * l ≤ i → tm i = tm' i) :
    levelsEvents c hint tm l ls = levelsEvents c hint tm' l ls := by
  induction ls generalizing l with
  | nil => rfl
  | cons r rs ih =>
    rw [levelsEvents, levelsEvents, ih fun i hi => h i (by omega),
      LevelReads.events_congr fun i hi _ => h i hi]

/-- The time samples of the levels before `l`, and of those from it on. -/
def splitTimes (l : Nat) (tm tm' : Nat → Nat) (i : Nat) : Nat := if i < 4 * l then tm i else tm' i

theorem levelsEvents_splitTimes (c : Config) (hint : Option Uid) (tm tm' : Nat → Nat) (l : Nat)
    (r : LevelReads) (rs : List LevelReads) :
    levelsEvents c hint (splitTimes (l + 1) tm tm') l (r :: rs) =
      levelsEvents c hint tm' (l + 1) rs ++ r.events c hint l tm := by
  have hrest : levelsEvents c hint (splitTimes (l + 1) tm tm') (l + 1) rs =
      levelsEvents c hint tm' (l + 1) rs :=
    levelsEvents_congr fun i hi => if_neg (Nat.not_lt.mpr hi)
  have hfirst : r.events c hint l (splitTimes (l + 1) tm tm') = r.events c hint l tm :=
    LevelReads.events_congr fun i _ hi => if_pos hi
  rw [levelsEvents, hrest, hfirst]

theorem LevelsOk.tail {c : Config} {r r' : LevelReads} {rs : List LevelReads}
    (h : LevelsOk c (r :: r' :: rs)) : LevelsOk c (r' :: rs) where
  count := ⟨Nat.succ_pos _, (Nat.le_succ _).trans h.count.2⟩
  ok := fun q hq => h.ok q (List.mem_cons_of_mem r hq)
  more := fun q hq => h.more q (by
    rw [List.dropLast_cons_cons]
    exact List.mem_cons_of_mem r hq)
  last := fun q hq => h.last q (by
    rw [List.getLast?_cons_cons]
    exact hq)

/-! ## From a level to the next, or to the end -/

theorem settle_startLevel (s : State) : startLevel s = .running (settle (startLevel s)) := by
  cases hspecific : s.arg.specific with
  | false =>
    rw [startLevel_probing hspecific]
    rfl
  | true =>
    rw [startLevel_specific hspecific]
    rfl

section
variable {stack : List Ret} {m : State} {sak : Byte} (hsak : m.sel.sakb.getD 0 0 = sak) (v : Value)
include hsak

theorem unwind_selectAnswered_more (hbit : anyBit sak sakNotComplete = true) (hlevel : m.sel.level < 2) :
    unwind (.r215 :: stack) (.ok v) m = settle (startLevel (nextLevel { m with stack := stack })) :=
  have hmore := selectAnswered_more (s := { m with stack := stack }) hsak hbit hlevel
  unwind_running (hmore.trans (settle_startLevel _))

theorem unwind_selectAnswered_last (hbit : anyBit sak sakNotComplete = false)
    (hcallers : stack ∈ selectCallers) :
    unwind (.r215 :: stack) (.ok v) m = deliver (.ok (.uid (finalUid sak m))) { m with
      stack := stack, sel := { m.sel with state := .idle, uidAcc := finalUid sak m } } :=
  have hlast := selectAnswered_final (s := { m with stack := stack }) hsak hbit
  (unwind_done (l := .r215) (r := .ok v) (s := m) hlast).trans (unwind_selectCallers hcallers _ _)

end

/-- The levels from the one that starts in `s` on, to the end of `select` (43_select R201 to R220). -/
theorem levels_run {hint : Option Uid} {ls : List LevelReads} {s : State} {u : Uid}
    {rest : List Answer} (hh : Hinted hint s) (hcallers : s.stack ∈ selectCallers)
    (hok : LevelsOk s.cfg ls) (hcount : s.sel.level + ls.length ≤ maxLevels)
    (hu : u.bytes = s.sel.uidAcc.bytes)
    (ha : s.env.answers = levelsAnswers s.cfg hint s.sel.level ls ++ rest) :
    ∃ n tm m, Reaches n (settle (startLevel s))
        (deliver (.ok (.uid (levelsUid s.cfg hint u s.sel.level ls))) m) ∧
      Progress s m (levelsEvents s.cfg hint tm s.sel.level ls) rest := by
  induction ls generalizing s u with
  | nil => exact absurd hok.count.1 (by decide)
  | cons r rs ih =>
    rw [levelsAnswers, List.append_assoc] at ha
    rw [List.length_cons] at hcount
    obtain ⟨n, tm, v, m, hrun, hm, hanswered⟩ := level_run hh (hok.ok r List.mem_cons_self) ha
    have hbytes := hanswered.copyLevel_bytes hu
    cases rs with
    | nil =>
      have huid : finalUid r.sak m = levelsUid s.cfg hint u s.sel.level [r] := by
        rw [levelsUid, levelsUid, finalUid, hanswered.level, hm.cfg]
        exact congrArg (fun bytes => Uid.mk _ bytes _ _) (hanswered.level ▸ hbytes)
      rw [unwind_selectAnswered_last hanswered.sak v (hok.last r rfl) hcallers, huid] at hrun
      exact ⟨n, tm, _, hrun, { hm with }⟩
    | cons r' rs =>
      have hlevel : m.sel.level < 2 := by
        rw [hanswered.level]
        simp only [List.length_cons, maxLevels] at hcount
        omega
      rw [unwind_selectAnswered_more hanswered.sak v (hok.more r List.mem_cons_self) hlevel] at hrun
      have hnext : Progress s (nextLevel { m with stack := s.stack }) _ _ := { hm with }
      have hnextLevel : (nextLevel { m with stack := s.stack }).sel.level = s.sel.level + 1 := by
        rw [nextLevel_sel, ← hanswered.level]
      obtain ⟨n', tm', m', hrun', hm'⟩ :=
        ih (s := nextLevel { m with stack := s.stack })
          (u := { copyLevel s.sel.level (r.payload s.cfg hint s.sel.level) u with
            size := 3 * (s.sel.level + 1) + 1, sak := r.sak, piccType := piccTypeOf s.cfg r.sak })
          (hh.of_args hnext.hint hnext.specific) hcallers (by rw [hnext.cfg]; exact hok.tail)
          (by rw [hnextLevel]; omega) hbytes.symm (by rw [hnext.cfg, hnextLevel]; exact hnext.answers)
      have htotal := hnext.trans hm'
      rw [hnextLevel, hnext.cfg] at hrun'
      rw [hnextLevel, hnext.cfg, ← levelsEvents_splitTimes] at htotal
      exact ⟨_, _, m', reaches_trans hrun hrun', htotal⟩

/-! ## `select` as a whole -/

/-- `select` with legal arguments in `s`, on its own or called by `activate`, to its end (43_select R199
to R220). -/
theorem enterSelect_run {s : State} {known : Option Uid} {ls : List LevelReads} {rest : List Answer}
    (hargs : selectArgsLegal s.arg.uidHint s.arg.specific = true)
    (hknown : known = if s.arg.specific then s.arg.uidHint else none)
    (hcallers : s.stack ∈ selectCallers) (hok : LevelsOk s.cfg ls)
    (ha : s.env.answers = levelsAnswers s.cfg known 0 ls ++ rest) :
    ∃ q n tm m, enterSelect s = .running q ∧
      Reaches n q (deliver (.ok (.uid (levelsUid s.cfg known { } 0 ls))) m) ∧
      Progress s m (levelsEvents s.cfg known tm 0 ls) rest := by
  have hhinted : Hinted known s := by
    unfold Hinted
    cases hspecific : s.arg.specific with
    | false => rw [hknown, hspecific]; rfl
    | true =>
      cases hhint : s.arg.uidHint with
      | none => rw [hspecific, hhint] at hargs; exact absurd hargs (by decide)
      | some u => rw [hknown, hspecific, hhint]; exact ⟨rfl, rfl⟩
  rw [enterSelect, if_pos hargs]
  obtain ⟨n, tm, m, hrun, hm⟩ :=
    levels_run (s := { s with sel := { s.sel with uidAcc := { }, level := 0 } }) (u := { }) (hint := known)
      (ls := ls) (rest := rest) hhinted hcallers hok ((Nat.zero_add _).trans_le hok.count.2) rfl ha
  exact ⟨_, n, tm, m, settle_startLevel _, hrun, { hm with }⟩

/-- Settles O50: `enterSelect_run` for the host's call. -/
theorem selectCompletes : Obligations.SelectCompletes := by
  unfold Obligations.SelectCompletes
  intro s hint known specific ls rest hs hargs hknown hok ha
  obtain ⟨q, n, tm, m, hstart, hrun, hm⟩ :=
    enterSelect_run (s := s.latched 0x11#8 { uidHint := hint, specific := specific }) hargs hknown
      List.mem_cons_self hok ha
  have hexec : exec (.select hint specific) s = .next q := by
    rw [exec, execSelect, accept_idle hs, hstart, land_running]
  exact ⟨n, tm, _, ⟨_, hexec, hrun⟩, hm.ends (portResult_other (by decide) _)⟩

end Sys2Proof.Machine
end

section
/-! A `transceive` whose wait ends by the chip's timer flag, and one whose error snapshot has a
protocol-class bit: the runs to their results (42_executor R161 to R169). -/

namespace Sys2Proof.Machine

/-! ## The sending half, step by step -/

/-- The exchange latched in `s` has gone on to `m`, still before its answer, by the transactions and
samples `events`; `rest` of the environment's answers is left. -/
structure Sending (s m : State) (events : List Event) (rest : List Answer) : Prop
    extends Progress s m events rest where
  arg : m.arg = s.arg
  stack : m.stack = s.stack
  sel : m.sel = s.sel
  txb : m.reg.txb = s.reg.txb

/-- `s` leads to the label `l` of the sending half. -/
def SendsTo (s : State) (l : Seq) (events : List Event) (rest : List Answer) : Prop :=
  ∃ n m, Reaches n s m ∧ m.seq = l ∧ Sending s m events rest

section
variable {s m : State} {events : List Event} {rest : List Answer}

theorem Sending.tx {t : Tx} {bs : List Byte} (h : Sending s m events (.ok bs :: rest))
    (hlen : bs.length = t.readLen) :
    Sending s (m.afterTx t) (.tx t (some bs) :: events) rest :=
  { h with
    log := (afterTx_log_ok h.answers hlen).trans (congrArg _ h.log)
    chip := by rw [afterTx_chip_ok h.answers hlen, h.cfg, h.chip]; rfl
    answers := congrArg List.tail h.answers }

/-- One more single write. -/
theorem Sending.write {n : Nat} {l : Seq} {a v : Byte} (hm : Sending s m events (wrote :: rest))
    (hrun : Reaches n s m) (hb : m.seq ≠ .idle) (hl : stepLabel m = writeThen a v l m) :
    SendsTo s l (evW a v :: events) rest := by
  have hstep : step m = .next (goto l (m.afterTx (.wr a v))) := by
    rw [step_busy hb, advance, hl, writeThen_ok hm.answers]
    rfl
  exact ⟨_, _, reaches_trans hrun (reaches_succ hstep (reaches_zero _)), rfl,
    { hm.tx (t := .wr a v) rfl with }⟩

theorem SendsTo.write {l l' : Seq} {a v : Byte} (h : SendsTo s l events (wrote :: rest))
    (hb : l ≠ .idle)
    (hl : ∀ m, m.seq = l → m.cfg = s.cfg → m.arg = s.arg → m.reg.txb = s.reg.txb →
      stepLabel m = writeThen a v l' m) : SendsTo s l' (evW a v :: events) rest := by
  obtain ⟨n, m, hrun, hseq, hm⟩ := h
  exact hm.write hrun (hseq ▸ hb) (hl m hseq hm.cfg hm.arg hm.txb)

/-- The bulk write of the frame, if it is issued (42_executor R164, 40_transport R128). -/
theorem SendsTo.load
    (h : SendsTo s (bulkLabel s.cfg s.reg.txb.length .r164 .r165) events
      (loadAnswers s.cfg s.reg.txb ++ rest)) :
    SendsTo s .r165 (loadEvents s.cfg s.reg.txb ++ events) rest := by
  unfold bulkLabel loadAnswers at h
  unfold loadEvents
  by_cases helided : bulkElided s.cfg s.reg.txb.length = true
  case pos =>
    rw [if_pos helided, if_pos helided] at h
    rw [if_pos helided]
    exact h
  case neg =>
    rw [if_neg helided, if_neg helided] at h
    rw [if_neg helided]
    obtain ⟨n, m, hrun, hseq, hm⟩ := h
    have hstep : step m = .next (goto .r165 (m.afterTx (.wrb aFifoData s.reg.txb))) := by
      have hlabel : stepLabel m = exLoad m := by simp only [stepLabel, hseq]
      have hanswer : m.answer (.wrb aFifoData s.reg.txb) = some [] := Env.answer_laid hm.answers rfl
      rw [step_busy (hseq ▸ nofun), advance, hlabel, exLoad, hm.txb, onTx_ok hanswer]
      rfl
    exact ⟨_, _, reaches_trans hrun (reaches_succ hstep (reaches_zero _)), rfl,
      { hm.tx (t := .wrb aFifoData s.reg.txb) rfl with }⟩

/-- The state after the read of BitFraming in step 7 (42_executor R167). -/
def startRead (v : Byte) (s : State) : State :=
  goto .r167w { s.afterTx (.rd aBitFraming) with reg := { s.reg with scratch := v } }

/-- The start of a Transceive: BitFraming is read, and written with the start bit (42_executor R167). -/
theorem SendsTo.start {v : Byte} (h : SendsTo s .r167r events (gave v :: wrote :: rest)) :
    SendsTo s .r168t
      (evW aBitFraming (v ||| s.cfg.bfStartSend) :: evR aBitFraming v :: events) rest := by
  obtain ⟨n, m, hrun, hseq, hm⟩ := h
  have hlabel : stepLabel m = exStartRead m := by simp only [stepLabel, hseq]
  have hread : step m = .next (startRead v m) := by
    rw [step_busy (hseq ▸ nofun), advance, hlabel, exStartRead, readThen_ok hm.answers]
    rfl
  have hgot : Sending s (startRead v m) _ (wrote :: rest) :=
    { hm.tx (t := .rd aBitFraming) rfl with }
  have hwrite : stepLabel (startRead v m) =
      writeThen aBitFraming (v ||| s.cfg.bfStartSend) .r168t (startRead v m) := hm.cfg ▸ rfl
  exact hgot.write (reaches_trans hrun (reaches_succ hread (reaches_zero _))) nofun hwrite

/-- The sending half of a `transceive` up to its poll (42_executor R161 to R167). -/
theorem transceive_sends {x : ExReads} (hseq : s.seq = .r161) (hcmd : s.arg.cmd = s.cfg.cmdTransceive)
    (ha : s.env.answers = sendAnswers s.cfg s.arg.cmd s.reg.txb x ++ rest) :
    SendsTo s .r168t
      (startEvents s.cfg s.arg.cmd x ++
        [evW aCommand s.arg.cmd, evW aBitFraming (bitFraming s.cfg s.arg.rxAlign s.arg.txLastBits)] ++
        loadEvents s.cfg s.reg.txb ++
        [evW aFifoLevel s.cfg.fifoFlush, evW aComIrq s.cfg.comIrqClear, evW aCommand s.cfg.cmdIdle])
      (gave x.poll :: rest) := by
  have hstart : SendsTo s .r161 [] (sendAnswers s.cfg s.arg.cmd s.reg.txb x ++ rest) :=
    ⟨0, s, reaches_zero s, hseq, ⟨⟨rfl, rfl, rfl, rfl, rfl, rfl, rfl, ha⟩, rfl, rfl, rfl, rfl⟩⟩
  rw [sendAnswers, startAnswers, if_pos hcmd] at hstart
  simp only [List.append_assoc, List.cons_append, List.nil_append] at hstart
  have hidle := hstart.write (a := aCommand) (v := s.cfg.cmdIdle) (l' := .r162) nofun
    fun m hl hc _ _ => by simp only [stepLabel, hl, exIdle, hc]
  have hclear := hidle.write (a := aComIrq) (v := s.cfg.comIrqClear) (l' := .r163) nofun
    fun m hl hc _ _ => by simp only [stepLabel, hl, exClear, hc]
  have hflush := hclear.write (a := aFifoLevel) (v := s.cfg.fifoFlush)
    (l' := bulkLabel s.cfg s.reg.txb.length .r164 .r165) nofun
    fun m hl hc _ ht => by simp only [stepLabel, hl, exFlush, hc, ht]
  have hframing := hflush.load.write (a := aBitFraming)
    (v := bitFraming s.cfg s.arg.rxAlign s.arg.txLastBits) (l' := .r166) nofun
    fun m hl hc hr _ => by simp only [stepLabel, hl, exFraming, hc, hr]
  have hcommand := hframing.write (a := aCommand) (v := s.arg.cmd) (l' := .r167r) nofun
    fun m hl hc hr _ => by simp only [stepLabel, hl, exCommand, hc, hr, hcmd, if_true]
  rw [startEvents, if_pos hcmd]
  exact hcommand.start

/-! ## The two failures -/

/-- The chip's timer flag ends the wait with `Timeout` (42_executor R168, 40_transport R127). -/
theorem timedOut_run {x : ExReads} (hseq : s.seq = .r161) (hcmd : s.arg.cmd = s.cfg.cmdTransceive)
    (hd : anyBit x.poll s.arg.waitFlags = false) (htimer : anyBit x.poll s.cfg.irqTimer = true)
    (ha : s.env.answers = sendAnswers s.cfg s.arg.cmd s.reg.txb x ++ rest) :
    ∃ n m, Reaches n s (unwind s.stack (.err .timeout) m) ∧
      Sending s m (sendEvents s.cfg s.arg.cmd s.reg.txb s.arg.rxAlign s.arg.txLastBits x m.env.now)
        rest := by
  obtain ⟨n, m, hrun, hm, hsending⟩ := transceive_sends hseq hcmd ha
  have henter : step m = .next (pollEntered .r168r m) :=
    step_pollEnter (hm ▸ nofun) (by simp only [stepLabel, hm, exPollEnter])
  have hentered : Sending s (pollEntered .r168r m) (.now m.env.sample :: _) (gave x.poll :: rest) :=
    { hsending with log := congrArg _ hsending.log }
  obtain ⟨t, hread, -, -, hfail, -⟩ :=
    step_pollRead (s := pollEntered .r168r m) (completed := fun u => .running (goto .r169 u)) nofun rfl
      hentered.answers fun _ => rfl
  obtain rfl := hfail (by rw [hentered.arg]; exact hd) (by rw [hentered.cfg]; exact htimer)
  have hpolled : Sending s (polled aComIrq x.poll (pollEntered .r168r m)) _ rest :=
    { hentered.tx (t := .rd aComIrq) rfl with }
  rw [hentered.stack] at hread
  exact ⟨_, _, reaches_trans hrun (reaches_succ henter (reaches_succ hread (reaches_zero _))), hpolled⟩

theorem SendRun.sending {x : ExReads} (h : SendRun s m x rest) :
    Sending s m (sendEvents s.cfg s.arg.cmd s.reg.txb s.arg.rxAlign s.arg.txLastBits x m.env.now)
      rest :=
  { h.progress, h with txb := by rw [h.reg] }

/-- A protocol-class bit in the error snapshot is `ProtocolError` (42_executor R169). -/
theorem protocolError_run {x : ExReads} (hseq : s.seq = .r161)
    (hd : anyBit x.poll s.arg.waitFlags = true) (herr : (errFlags s.cfg x.error).protocolClass = true)
    (ha : s.env.answers = silentAnswers s.cfg s.arg.cmd s.reg.txb x ++ rest) :
    ∃ n m, Reaches n s (unwind s.stack (.err .protocolError) m) ∧
      Sending s m (silentEvents s.cfg s.arg.cmd s.reg.txb s.arg.rxAlign s.arg.txLastBits x m.env.now)
        rest := by
  rw [silentAnswers, List.append_assoc] at ha
  obtain ⟨m, hrun, hm⟩ := send_run hseq hd ha
  have hsnapshot := step_snapshot_protocolError hm.seq hm.answers (by rw [hm.cfg]; exact herr)
  have hsnapped : Sending s (snapped x.error m) _ rest :=
    { hm.sending.tx (t := .rd aError) rfl with }
  rw [hm.stack] at hsnapshot
  exact ⟨_, _, reaches_trans hrun (reaches_succ hsnapshot (reaches_zero _)), hsnapped⟩

end

end Sys2Proof.Machine
end

section
/-! `halt`, and HLTA on its own (43_select R223, R224; log 8, log 14). -/

namespace Sys2Proof.Machine

/-- The two bytes of HLTA (30_encoding R100). -/
abbrev hltaPayload (c : Config) : List Byte := [piccHlta, c.hltaArg]

/-- In `w` the operation issued in `s` has latched the exchange of HLTA with its CRC, `send`, without a
receive buffer, for `callers` (43_select R223). -/
structure HltaLatched (s w : State) (op : Byte) (callers : List Ret) (send : List Byte)
    (events : List Event) (rest : List Answer) : Prop
    extends Progress (s.latched op { }) w events rest where
  seq : w.seq = .r161
  stack : w.stack = callers
  recvTarget : w.recvTarget = .absent
  txb : w.reg.txb = send
  cmd : w.arg.cmd = s.cfg.cmdTransceive
  waitFlags : w.arg.waitFlags = transceiveFlags s.cfg
  rxAlign : w.arg.rxAlign = 0
  txLastBits : w.arg.txLastBits = 0

section
variable {s w : State} {op : Byte} {callers : List Ret} {send : List Byte} {events : List Event}
  {x : ExReads} {rest : List Answer}

/-- The chip's timer flag ends that exchange with `Timeout`. -/
theorem HltaLatched.timedOut
    (h : HltaLatched s w op callers send events (sendAnswers s.cfg s.cfg.cmdTransceive send x ++ rest))
    (hd : anyBit x.poll (transceiveFlags s.cfg) = false) (htimer : anyBit x.poll s.cfg.irqTimer = true) :
    ∃ n m, Reaches n w (unwind callers (.err .timeout) m) ∧
      Progress (s.latched op { }) m
        (sendEvents s.cfg s.cfg.cmdTransceive send 0 0 x m.env.now ++ events) rest := by
  have hcfg : w.cfg = s.cfg := h.cfg
  obtain ⟨n, m, hrun, hm⟩ := timedOut_run h.seq (by rw [h.cmd, hcfg]) (by rw [h.waitFlags]; exact hd)
    (by rw [hcfg]; exact htimer) (by rw [h.answers, hcfg, h.cmd, h.txb])
  have htotal := h.toProgress.trans hm.toProgress
  rw [hcfg, h.cmd, h.txb, h.rxAlign, h.txLastBits] at htotal
  exact ⟨n, m, h.stack ▸ hrun, htotal⟩

/-- An answer to it, which nobody has asked for, is `Ok` of nothing (42_executor R170, R176). -/
theorem HltaLatched.answered
    (h : HltaLatched s w op callers send events (silentAnswers s.cfg s.cfg.cmdTransceive send x ++ rest))
    (hd : x.Completes s.cfg (transceiveFlags s.cfg)) :
    ∃ n m, Reaches n w (unwind callers (.ok (.received 0 [] 0)) m) ∧
      Progress (s.latched op { }) m
        (silentEvents s.cfg s.cfg.cmdTransceive send 0 0 x m.env.now ++ events) rest := by
  have hcfg : w.cfg = s.cfg := h.cfg
  obtain ⟨hpoll, hproto, hcoll⟩ := hd
  obtain ⟨m, hrun, hm⟩ := silent_run h.seq (by rw [h.waitFlags]; exact hpoll) h.recvTarget
    (by rw [hcfg]; exact hproto) (by rw [h.answers, hcfg, h.cmd, h.txb])
  have hnothing : recvBytes m = [] := by
    unfold recvBytes
    rw [hm.recvTarget]
  have hreg := hm.reg
  rw [exClassify_unchecked (by rw [hm.cfg, hreg, hcfg]; exact hcoll) (.inr hm.recvTarget), hnothing, hreg,
    settle_done, hm.stack, h.stack] at hrun
  have htotal := h.toProgress.trans hm.progress
  rw [hcfg, h.cmd, h.txb, h.rxAlign, h.txLastBits] at htotal
  exact ⟨_, m, hrun, htotal⟩

end

/-! ## From the issue to the exchange -/

/-- The state in which `halt` has been issued (43_select R223). -/
def haltIssued (s : State) : State :=
  settle (callCrc .r223 (hltaPayload s.cfg)
    { s.latched 0x12#8 { } with reg := { s.reg with txb := hltaPayload s.cfg } })

/-- The state in which HLTA on its own has been issued (30_encoding R94, R100). -/
def hltaIssued (s : State) : State :=
  settle (startFrame .r94 (hltaPayload s.cfg) .absent false (s.latched 0 { }))

section
variable {s : State} {k : CrcReads} {rest : List Answer}

theorem exec_halt (hs : s.seq = .idle) : exec .halt s = .next (haltIssued s) := by
  rw [exec, execHalt, accept_idle hs]
  rfl

theorem exec_hlta (hs : s.seq = .idle) : exec .hlta s = .next (hltaIssued s) := by
  rw [exec, execHlta, accept_idle hs]
  rfl

section
variable (hk : k.Completes s.cfg)
  (ha : s.env.answers = crcAnswers s.cfg (hltaPayload s.cfg) k ++ rest)
include hk ha

/-- `halt` sends HLTA for the rule that turns a timeout into success (43_select R224). -/
theorem halt_latched : ∃ n t₁ w, Reaches n (haltIssued s) w ∧
    HltaLatched s w 0x12#8 [.r224] (k.frame s.cfg (hltaPayload s.cfg))
      (crcEvents s.cfg (hltaPayload s.cfg) k t₁) rest := by
  obtain ⟨m, hrun, hm⟩ := crc_run (s := haltIssued s) rfl hk ha
  have hreg := hm.reg
  have hsend : m.reg.txb ++ crcBytes m.reg.crc = k.frame s.cfg (hltaPayload s.cfg) := by
    rw [hreg]
    rfl
  have hnext : unwind [.r223] (.ok (.crc (k.value s.cfg))) m =
      goto .r161 (push .r224 (latchTransceive (m.reg.txb ++ crcBytes m.reg.crc) .absent 0 0 false
        { m with stack := [] })) := unwind_running rfl
  have hrun' := hnext ▸ (hrun : Reaches _ _ (unwind [.r223] _ m))
  exact ⟨_, m.env.now, _, hrun', { hm.progress with
    seq := rfl, stack := rfl, recvTarget := rfl, txb := hsend, rxAlign := rfl, txLastBits := rfl
    cmd := congrArg Config.cmdTransceive hm.cfg
    waitFlags := congrArg transceiveFlags hm.cfg }⟩

/-- HLTA on its own sends the same frame, with no rule above the exchange (30_encoding R94). -/
theorem hlta_latched : ∃ n t₁ w, Reaches n (hltaIssued s) w ∧
    HltaLatched s w 0 [] (k.frame s.cfg (hltaPayload s.cfg))
      (crcEvents s.cfg (hltaPayload s.cfg) k t₁) rest := by
  obtain ⟨m, hrun, hm⟩ := crc_run (s := hltaIssued s) rfl hk ha
  have hreg := hm.reg
  have hsend : m.reg.txb ++ crcBytes m.reg.crc = k.frame s.cfg (hltaPayload s.cfg) := by
    rw [hreg]
    rfl
  have harg := hm.arg
  have hnext : unwind [.r94] (.ok (.crc (k.value s.cfg))) m =
      goto .r161 (appendCrcToTxb { m with stack := [] }) := unwind_running rfl
  have hrun' := hnext ▸ (hrun : Reaches _ _ (unwind [.r94] _ m))
  exact ⟨_, m.env.now, _, hrun', { hm.progress with
    seq := rfl, stack := rfl, recvTarget := hm.recvTarget, txb := hsend
    cmd := congrArg Args.cmd harg
    waitFlags := congrArg Args.waitFlags harg
    rxAlign := congrArg Args.rxAlign harg
    txLastBits := congrArg Args.txLastBits harg }⟩

end
end

/-! ## `halt` as a whole -/

/-- The chip's timer flag is success (43_select R224). -/
theorem halt_timedOut {s : State} {k : CrcReads} {x : ExReads} {rest : List Answer}
    (hs : s.seq = .idle) (hk : k.Completes s.cfg) (hd : anyBit x.poll (transceiveFlags s.cfg) = false)
    (htimer : anyBit x.poll s.cfg.irqTimer = true)
    (ha : s.env.answers = crcAnswers s.cfg (hltaPayload s.cfg) k ++
      (sendAnswers s.cfg s.cfg.cmdTransceive (k.frame s.cfg (hltaPayload s.cfg)) x ++ rest)) :
    ∃ n t₁ t, RunsTo .halt s n t ∧
      Ends s t (.ok .nothing)
        (sendEvents s.cfg s.cfg.cmdTransceive (k.frame s.cfg (hltaPayload s.cfg)) 0 0 x
          t.env.now ++ crcEvents s.cfg (hltaPayload s.cfg) k t₁) rest ∧
      HostKept s t := by
  obtain ⟨n, t₁, w, hcrc, hw⟩ := halt_latched hk ha
  obtain ⟨n', m, hrun, hm⟩ := hw.timedOut hd htimer
  have hsuccess : unwind [.r224] (.err .timeout) m = deliver (.ok .nothing) { m with stack := [] } :=
    unwind_done rfl
  have hm' : Progress (s.latched 0x12#8 { }) { m with stack := [] } _ rest := { hm with }
  rw [hsuccess] at hrun
  exact ⟨_, t₁, _, ⟨_, exec_halt hs, reaches_trans hcrc hrun⟩, hm'.ends (portResult_nothing _)⟩

/-- An answer is a failure of `halt`, and the result of HLTA on its own (43_select R224; log 17). -/
theorem halt_answered {s : State} {k : CrcReads} {x : ExReads} {rest : List Answer}
    (hs : s.seq = .idle) (hk : k.Completes s.cfg) (hd : x.Completes s.cfg (transceiveFlags s.cfg))
    (ha : s.env.answers = crcAnswers s.cfg (hltaPayload s.cfg) k ++
      (silentAnswers s.cfg s.cfg.cmdTransceive (k.frame s.cfg (hltaPayload s.cfg)) x ++ rest))
    {i : Instr} {r : Res}
    (hi : (i = .halt ∧ r = .err .protocolError) ∨ (i = .hlta ∧ r = .ok (.received 0 [] 0))) :
    ∃ n t₁ t, RunsTo i s n t ∧
      Ends s t r
        (silentEvents s.cfg s.cfg.cmdTransceive (k.frame s.cfg (hltaPayload s.cfg)) 0 0 x
          t.env.now ++ crcEvents s.cfg (hltaPayload s.cfg) k t₁) rest ∧
      HostKept s t := by
  rcases hi with ⟨rfl, rfl⟩ | ⟨rfl, rfl⟩
  case inl =>
    obtain ⟨n, t₁, w, hcrc, hw⟩ := halt_latched hk ha
    obtain ⟨n', m, hrun, hm⟩ := hw.answered hd
    have hfailure : unwind [.r224] (.ok (.received 0 [] 0)) m =
        deliver (.err .protocolError) { m with stack := [] } := unwind_done rfl
    have hm' : Progress (s.latched 0x12#8 { }) { m with stack := [] } _ rest := { hm with }
    rw [hfailure] at hrun
    exact ⟨_, t₁, _, ⟨_, exec_halt hs, reaches_trans hcrc hrun⟩, hm'.ends (portResult_err _ _)⟩
  case inr =>
    obtain ⟨n, t₁, w, hcrc, hw⟩ := hlta_latched hk ha
    obtain ⟨n', m, hrun, hm⟩ := hw.answered hd
    exact ⟨_, t₁, _, ⟨_, exec_hlta hs, reaches_trans hcrc hrun⟩, hm.ends (portResult_zero _)⟩

/-- The deadline test of HLTA ends `halt` with success too (43_select R224, 60_exceptions R287). -/
theorem halt_overdue {s : State} (hs : s.seq = .r168n) (hstack : s.stack = [.r224])
    (hlate : s.cfg.tExecMs ≤ s.env.sample - s.reg.t0) :
    ∃ t, step s = .next t ∧ AtRest t ∧ t.host.result = some (.ok .nothing) ∧
      t.log = .now s.env.sample :: s.log ∧ t.chip = s.chip ∧ HostKept s t := by
  have hlabel : stepLabel s = exPollTime s := by simp only [stepLabel, hs]
  obtain ⟨t, hstep, hlog, hchip, -, htimeout⟩ := step_pollTime (hs ▸ nofun) hlabel
  have hsuccess : t = deliver (.ok .nothing) { s.afterNow with stack := [] } := by
    rw [htimeout hlate, hstack]
    exact unwind_done rfl
  have hresult : t.host.result = some (.ok .nothing) := by
    rw [hsuccess]
    exact congrArg some (portResult_nothing _)
  exact ⟨t, hstep, hsuccess ▸ deliver_atRest _ _, hresult, hlog, hchip,
    hsuccess ▸ deliver_hostKept _ rfl rfl rfl⟩

/-- Settles O55: HLTA as far as the exchange, then the rule that takes the exchange's result. -/
theorem haltCompletes : Obligations.HaltCompletes := by
  unfold Obligations.HaltCompletes
  refine ⟨?runs, ?rule, fun s hs hstack hlate => halt_overdue hs hstack hlate⟩
  case runs =>
    rintro s k x payload rest hs rfl hk
    exact ⟨fun hd htimer ha => halt_timedOut hs hk hd htimer ha,
      fun i r hi hd ha => halt_answered hs hk hd ha hi⟩
  case rule =>
    refine fun u => ⟨rfl, fun e he => ?_, fun v => rfl⟩
    cases e with
    | timeout => exact absurd rfl he
    | _ => rfl

end Sys2Proof.Machine
end

section
/-! `activate` as a whole: the short frames, then `select` (43_select R191 to R195). -/

namespace Sys2Proof.Machine

/-- The state in which a short frame has been latched for the rule `l` (43_select R193, R194). -/
def shortAt (l : Ret) (b : Byte) (s : State) : State := goto .r161 (push l (latchShort b s))

/-- A result after which `activate` goes on to `select` (43_select R193 to R195). -/
def Tolerated (r : Res) : Prop := (∃ v, r = .ok v) ∨ r = .err .collision

theorem Tolerated.proceeds {l : Ret} {r : Res} (h : Tolerated r) (hl : l ∈ [Ret.r193, .r194])
    (s : State) : resume l r s = proceedToSelect s := by
  obtain rfl | rfl : l = .r193 ∨ l = .r194 := by simpa using hl
  all_goals obtain ⟨v, rfl⟩ | rfl := h
  all_goals rfl

section
variable {s : State} {l : Ret} {b : Byte} {x y : ExReads} {rest : List Answer}

/-- An answered or collided short frame has a tolerated result (42_executor R173, R176). -/
theorem short_run (hstack : s.stack = []) (hatqa : s.sel.atqa.length = 2)
    (hd : anyBit y.poll (transceiveFlags s.cfg) = true)
    (he : (errFlags s.cfg y.error).protocolClass = false) (hf : y.Fits s.cfg 2)
    (ha : s.env.answers = exchangeAnswers s.cfg s.cfg.cmdTransceive [b] y ++ rest) :
    ∃ n r m, Reaches n (shortAt l b s) (unwind [l] r m) ∧ Tolerated r ∧
      Progress s m (exchangeEvents s.cfg s.cfg.cmdTransceive [b] 0 7 y m.env.now) rest := by
  obtain ⟨m, hrun, hm⟩ := exchange_run (s := shortAt l b s) rfl hd nofun he
    (show y.Fits s.cfg s.sel.atqa.length from hatqa ▸ hf) ha
  have hprogress : Progress s m _ rest := { hm.progress nofun with }
  have hmstack : m.stack = [l] := hm.stack.trans (congrArg (l :: ·) hstack)
  cases hcoll : (errFlags m.cfg m.reg.errsnap).collision with
  | true =>
    rw [exClassify_collision hcoll, settle_done, hmstack] at hrun
    exact ⟨_, _, m, hrun, .inr rfl, hprogress⟩
  | false =>
    have hcheck : m.arg.checkCrc = false := congrArg Args.checkCrc hm.arg
    rw [exClassify_unchecked hcoll (.inl hcheck), settle_done, hmstack] at hrun
    exact ⟨_, _, m, hrun, .inl ⟨_, rfl⟩, hprogress⟩

/-- Such a short frame, then `select` to its end (43_select R195 to R220). -/
theorem short_select_run {known : Option Uid} {ls : List LevelReads} (hl : l ∈ [Ret.r193, .r194])
    (hstack : s.stack = []) (hatqa : s.sel.atqa.length = 2)
    (hd : anyBit y.poll (transceiveFlags s.cfg) = true)
    (he : (errFlags s.cfg y.error).protocolClass = false) (hf : y.Fits s.cfg 2)
    (hargs : selectArgsLegal s.arg.uidHint s.arg.specific = true)
    (hknown : known = if s.arg.specific then s.arg.uidHint else none) (hok : LevelsOk s.cfg ls)
    (ha : s.env.answers = exchangeAnswers s.cfg s.cfg.cmdTransceive [b] y ++
      (levelsAnswers s.cfg known 0 ls ++ rest)) :
    ∃ n t₀ tm m, Reaches n (shortAt l b s)
        (deliver (.ok (.uid (levelsUid s.cfg known { } 0 ls))) m) ∧
      Progress s m (levelsEvents s.cfg known tm 0 ls ++
        exchangeEvents s.cfg s.cfg.cmdTransceive [b] 0 7 y t₀) rest := by
  obtain ⟨n, r, m, hshort, htolerated, hm⟩ := short_run hstack hatqa hd he hf ha
  have hselect : Progress s (push .r195 { m with stack := [] }) _ _ := { hm with }
  obtain ⟨q, n', tm, m', hstart, hrun, hm'⟩ :=
    enterSelect_run (s := push .r195 { m with stack := [] }) (known := known) (ls := ls) (rest := rest)
      (by rw [hselect.hint, hselect.specific]; exact hargs)
      (by rw [hselect.hint, hselect.specific]; exact hknown)
      (by decide : [Ret.r195] ∈ selectCallers) (by rw [hselect.cfg]; exact hok)
      (by rw [hselect.answers, hselect.cfg])
  have hproceeds : unwind [l] r m = q :=
    unwind_running ((htolerated.proceeds hl { m with stack := [] }).trans hstart)
  have htotal := hselect.trans hm'
  rw [hselect.cfg] at hrun htotal
  exact ⟨_, m.env.now, tm, m', reaches_trans (hproceeds ▸ hshort) hrun, htotal⟩

/-- A REQA exchange that fails starts the WUPA exchange (43_select R194). -/
theorem reqa_failed_run {failed : List Answer} {failedEvents : Nat → List Event} (hstack : s.stack = [])
    (hfailed : (anyBit x.poll (transceiveFlags s.cfg) = false ∧ anyBit x.poll s.cfg.irqTimer = true ∧
        failed = sendAnswers s.cfg s.cfg.cmdTransceive [piccReqa] x ∧
        failedEvents = sendEvents s.cfg s.cfg.cmdTransceive [piccReqa] 0 7 x) ∨
      (anyBit x.poll (transceiveFlags s.cfg) = true ∧
        (errFlags s.cfg x.error).protocolClass = true ∧
        failed = silentAnswers s.cfg s.cfg.cmdTransceive [piccReqa] x ∧
        failedEvents = silentEvents s.cfg s.cfg.cmdTransceive [piccReqa] 0 7 x))
    (ha : s.env.answers = failed ++ rest) :
    ∃ n t₀ m, Reaches n (shortAt .r193 piccReqa s) (shortAt .r194 piccWupa m) ∧ m.stack = [] ∧
      m.sel = s.sel ∧ Progress s m (failedEvents t₀) rest := by
  have hat : (shortAt .r193 piccReqa s).stack = [.r193] := congrArg (fun stack => Ret.r193 :: stack) hstack
  rcases hfailed with ⟨hd, htimer, rfl, rfl⟩ | ⟨hd, herr, rfl, rfl⟩
  case inl =>
    obtain ⟨n, m, hrun, hm⟩ := timedOut_run (s := shortAt .r193 piccReqa s) rfl rfl hd htimer ha
    have hwupa : unwind [.r193] (.err .timeout) m = shortAt .r194 piccWupa { m with stack := [] } :=
      unwind_running rfl
    rw [hat, hwupa] at hrun
    exact ⟨n, m.env.now, _, hrun, rfl, hm.sel, { hm.toProgress with }⟩
  case inr =>
    obtain ⟨n, m, hrun, hm⟩ := protocolError_run (s := shortAt .r193 piccReqa s) rfl hd herr ha
    have hwupa : unwind [.r193] (.err .protocolError) m = shortAt .r194 piccWupa { m with stack := [] } :=
      unwind_running rfl
    rw [hat, hwupa] at hrun
    exact ⟨n, m.env.now, _, hrun, rfl, hm.sel, { hm.toProgress with }⟩

end

/-- The arguments with which `activate` has been issued, ATQA cleared (43_select R191, R193). -/
def activating (hint : Option Uid) (specific : Bool) (s : State) : State :=
  clearAtqa (s.latched 0x10#8 { uidHint := hint, specific := specific })

theorem exec_activate {s : State} {hint : Option Uid} {specific : Bool} (hs : s.seq = .idle)
    (hargs : selectArgsLegal hint specific = true) :
    exec (.activate hint specific) s =
      .next (shortAt .r193 piccReqa (activating hint specific s)) := by
  simp only [exec, execActivate, accept_idle hs, hargs, if_true]
  rfl

/-- Settles O51: REQA, or WUPA after it, then `short_select_run`. -/
theorem activateCompletes : Obligations.ActivateCompletes := by
  unfold Obligations.ActivateCompletes
  intro s hint known specific x y ls rest hs hargs hknown hok hd he hf
  have hexec := exec_activate hs hargs
  refine ⟨fun ha => ?first, fun failed failedEvents hfailed ha => ?second⟩
  case first =>
    obtain ⟨n, t₀, tm, m, hrun, hm⟩ :=
      short_select_run (s := activating hint specific s) (l := .r193) List.mem_cons_self rfl rfl hd he hf
        hargs hknown hok ha
    have hm' : Progress (s.latched 0x10#8 { uidHint := hint, specific := specific }) m _ rest :=
      { hm with }
    exact ⟨n, t₀, tm, _, ⟨_, hexec, hrun⟩, hm'.ends (portResult_other (by decide) _)⟩
  case second =>
    obtain ⟨n, t₀, m, hreqa, hstack, hsel, hm⟩ :=
      reqa_failed_run (s := activating hint specific s) rfl hfailed ha
    obtain ⟨n', t₁, tm, m', hrun, hm'⟩ :=
      short_select_run (s := m) (l := .r194) (b := piccWupa) (known := known) (rest := rest)
        (by decide) hstack (by rw [hsel]; rfl)
        (by rw [hm.cfg]; exact hd) (by rw [hm.cfg]; exact he) (by rw [hm.cfg]; exact hf)
        (by rw [hm.hint, hm.specific]; exact hargs) (by rw [hm.hint, hm.specific]; exact hknown)
        (by rw [hm.cfg]; exact hok) (by rw [hm.cfg]; exact hm.answers)
    have htotal := hm.trans hm'
    rw [hm.cfg, List.append_assoc] at htotal
    rw [hm.cfg] at hrun
    have hwhole : Progress (s.latched 0x10#8 { uidHint := hint, specific := specific }) m' _ rest :=
      { htotal with }
    exact ⟨_, t₀, t₁, tm, _, ⟨_, hexec, reaches_trans hreqa hrun⟩,
      hwhole.ends (portResult_other (by decide) _)⟩

end Sys2Proof.Machine
end

section
/-! The authentication exchange: twelve bytes through the chip's authentication command (44_session R240
to R242). -/

namespace Sys2Proof.Machine

/-- The last four bytes of a UID record that holds them (20_memory R70). -/
theorem uidTail_eq_drop_take {u : Uid} (h4 : 4 ≤ u.size) (hlen : u.size ≤ u.bytes.length) :
    uidTail u = (u.bytes.drop (u.size - 4)).take 4 := by
  refine List.ext_getElem (by rw [uidTail_length, List.length_take, List.length_drop]; omega) ?_
  intro i hi _
  rw [uidTail_length] at hi
  have hpresent : u.size - 4 + i < u.bytes.length := by omega
  rw [List.getElem_take, List.getElem_drop, ← uidByte_present (List.getElem?_eq_getElem hpresent)]
  simp [uidTail]

/-- The state in which an authentication frame has been latched: no receive buffer, waiting for Idle
(44_session R242). -/
def authAt (op : Byte) (ports : Args) (frame : List Byte) (s : State) : State :=
  goto .r161
    (latchExchange s.cfg.cmdMfAuthent s.cfg.irqIdle frame .absent 0 0 false (s.latched op ports))

/-- An exchange without a receive buffer and without collision ends with `Ok` of nothing received
(42_executor R170, R176). -/
theorem silentExchange_run {s : State} {x : ExReads} {rest : List Answer} (hseq : s.seq = .r161)
    (hd : x.Completes s.cfg s.arg.waitFlags) (htarget : s.recvTarget = .absent)
    (ha : s.env.answers = silentAnswers s.cfg s.arg.cmd s.reg.txb x ++ rest) :
    ∃ m, Reaches ((silentAnswers s.cfg s.arg.cmd s.reg.txb x).length + 1) s
        (unwind s.stack (.ok (.received 0 [] 0)) m) ∧
      Progress s m
        (silentEvents s.cfg s.arg.cmd s.reg.txb s.arg.rxAlign s.arg.txLastBits x m.env.now) rest := by
  obtain ⟨hpoll, hproto, hcoll⟩ := hd
  obtain ⟨m, hrun, hm⟩ := silent_run hseq hpoll htarget hproto ha
  have hreg := hm.reg
  rw [exClassify_unchecked (by rw [hm.cfg, hreg]; exact hcoll) (.inr hm.recvTarget),
    recvBytes_of_absent hm.recvTarget, hreg, settle_done, hm.stack] at hrun
  exact ⟨m, hrun, hm.progress⟩

/-- What the host's call and the frame on its own have in common: the frame is latched, and the result
`v` is what the port shows of an exchange that received nothing. -/
def IssuesAuth (i : Instr) (s : State) (frame : List Byte) (v : Value) : Prop :=
  ∃ op ports, exec i s = .next (authAt op ports frame s) ∧
    portResult op (.ok (.received 0 [] 0)) = .ok v

section
variable {s : State} {cmd block : Byte} {key : List Byte}

theorem startAuthenticate_eq {op : Byte} {ports : Args} {u : Uid} (hsize : u.size ∈ [4, 7, 10])
    (hkey : key.length = 6) :
    startAuthenticate cmd u key block (s.latched op ports) =
      .running (authAt op ports (cmd :: block :: (key ++ uidTail u)) s) := by
  have hlegal : uidSizeLegal u.size = true := by
    simpa [uidSizeLegal, or_assoc] using hsize
  rw [startAuthenticate, hlegal, hkey]
  rfl

theorem authenticateA_issues {u : Uid} (hs : s.seq = .idle) (hsize : u.size ∈ [4, 7, 10])
    (hkey : key.length = 6) :
    IssuesAuth (.authenticateA u key block) s (0x60#8 :: block :: (key ++ uidTail u)) .nothing :=
  ⟨0x20#8, _, by
    rw [exec, execAuthenticateA, accept_idle hs, startAuthenticate_eq hsize hkey, land_running], rfl⟩

theorem authenticateB_issues {u : Uid} (hs : s.seq = .idle) (hsize : u.size ∈ [4, 7, 10])
    (hkey : key.length = 6) :
    IssuesAuth (.authenticateB u key block) s (0x61#8 :: block :: (key ++ uidTail u)) .nothing :=
  ⟨0x21#8, _, by
    rw [exec, execAuthenticateB, accept_idle hs, startAuthenticate_eq hsize hkey, land_running], rfl⟩

theorem mfAuthKeyA_issues {tail : List Byte} (hs : s.seq = .idle) :
    IssuesAuth (.mfAuthKeyA block key tail) s (0x60#8 :: block :: (key ++ tail))
      (.received 0 [] 0) :=
  ⟨0, { }, by rw [exec, execMfAuthKeyA, accept_idle hs]; rfl, portResult_zero _⟩

theorem mfAuthKeyB_issues {tail : List Byte} (hs : s.seq = .idle) :
    IssuesAuth (.mfAuthKeyB block key tail) s (0x61#8 :: block :: (key ++ tail))
      (.received 0 [] 0) :=
  ⟨0, { }, by rw [exec, execMfAuthKeyB, accept_idle hs]; rfl, portResult_zero _⟩

end

/-- An authentication frame, once latched, runs to its result (44_session R242). -/
theorem IssuesAuth.completes {i : Instr} {s : State} {frame : List Byte} {v : Value} {x : ExReads}
    {rest : List Answer} (hi : IssuesAuth i s frame v) (hd : x.Completes s.cfg s.cfg.irqIdle)
    (ha : s.env.answers = silentAnswers s.cfg s.cfg.cmdMfAuthent frame x ++ rest) :
    ∃ t, RunsTo i s ((silentAnswers s.cfg s.cfg.cmdMfAuthent frame x).length + 1) t ∧
      Ends s t (.ok v) (silentEvents s.cfg s.cfg.cmdMfAuthent frame 0 0 x t.env.now) rest ∧
      HostKept s t := by
  obtain ⟨op, ports, hexec, hresult⟩ := hi
  obtain ⟨m, hrun, hm⟩ := silentExchange_run (s := authAt op ports frame s) rfl hd rfl ha
  have hm' : Progress (s.latched op ports) m
      (silentEvents s.cfg s.cfg.cmdMfAuthent frame 0 0 x m.env.now) rest := { hm with }
  exact ⟨_, ⟨_, hexec, hrun⟩, hm'.ends hresult⟩

/-- Settles O56: the four instructions latch the same exchange, which runs without a receive buffer. -/
theorem authenticateCompletes : Obligations.AuthenticateCompletes := by
  unfold Obligations.AuthenticateCompletes
  refine ⟨?tail, ?runs⟩
  case tail =>
    intro u hlen hsize
    have hbounds : 4 ≤ u.size ∧ u.size ≤ 10 := by
      simp only [List.mem_cons, List.not_mem_nil, or_false] at hsize
      omega
    exact uidTail_eq_drop_take hbounds.1 (hlen ▸ hbounds.2)
  case runs =>
    intro s i v block key tail frame x rest hs hkey _ hi hd ha
    have hissues : IssuesAuth i s frame v := by
      rcases hi with ⟨u, hsize, rfl, rfl, ⟨rfl, rfl⟩ | ⟨rfl, rfl⟩⟩ |
        ⟨rfl, ⟨rfl, rfl⟩ | ⟨rfl, rfl⟩⟩
      · exact authenticateA_issues hs hsize hkey
      · exact authenticateB_issues hs hsize hkey
      · exact mfAuthKeyA_issues hs
      · exact mfAuthKeyB_issues hs
    exact hissues.completes hd ha

end Sys2Proof.Machine
end

section
/-! A standard frame: the CRC of its payload, then the exchange as latched (30_encoding R94, 41_crc
R151). -/

namespace Sys2Proof.Machine

/-- The operands a standard frame is latched with (30_encoding R94). -/
def frameArgs (c : Config) (payload : List Byte) (check : Bool) (a : Args) : Args :=
  { a with buffer := payload, cmd := c.cmdTransceive, waitFlags := transceiveFlags c, txLastBits := 0,
           rxAlign := 0, checkCrc := check }

/-- In `w` the operation that began a standard frame in `s` has appended the CRC and stands at the first
step of the exchange, whose result goes to `callers`. -/
structure FrameLatched (s w : State) (payload : List Byte) (target : RecvTarget) (check : Bool)
    (callers : List Ret) (k : CrcReads) (t : Nat) (rest : List Answer) : Prop
    extends Progress s w (crcEvents s.cfg payload k t) rest where
  seq : w.seq = .r161
  stack : w.stack = callers
  recvTarget : w.recvTarget = target
  txb : w.reg.txb = k.frame s.cfg payload
  arg : w.arg = frameArgs s.cfg payload check s.arg

/-- The state in which the exchange of the frame whose CRC was computed in `m` begins. -/
def frameSent (callers : List Ret) (ackb : List Byte) (m : State) : State :=
  goto .r161 (appendCrcToTxb { m with stack := callers, reg := { m.reg with ackb := ackb } })

section
variable {s : State} {payload : List Byte} {target : RecvTarget} {check : Bool} {k : CrcReads}
  {rest : List Answer}

/-- The CRC of a standard frame is handed to the rule `l`; from there the frame is in TXB and the exchange
is latched, whatever stands above it and whatever ACKB holds. -/
theorem startFrame_run (l : Ret) (hk : k.Completes s.cfg)
    (ha : s.env.answers = crcAnswers s.cfg payload k ++ rest) :
    ∃ n m, Reaches n (settle (startFrame l payload target check s))
        (unwind (l :: s.stack) (.ok (.crc (k.value s.cfg))) m) ∧
      ∀ callers ackb, FrameLatched s (frameSent callers ackb m) payload target check callers k
        m.env.now rest := by
  obtain ⟨m, hrun, hm⟩ := crc_run (s := settle (startFrame l payload target check s)) rfl hk ha
  have hreg := hm.reg
  have hsend : m.reg.txb ++ crcBytes m.reg.crc = k.frame s.cfg payload := by
    rw [hreg]
    rfl
  exact ⟨_, m, hrun, fun callers ackb =>
    { hm.progress with
      seq := rfl, stack := rfl, recvTarget := hm.recvTarget, txb := hsend, arg := hm.arg }⟩

/-- A standard frame with no rule above its exchange but those above the frame (30_encoding R94). -/
theorem frame_latched (hk : k.Completes s.cfg)
    (ha : s.env.answers = crcAnswers s.cfg payload k ++ rest) :
    ∃ n t w, Reaches n (settle (startFrame .r94 payload target check s)) w ∧
      FrameLatched s w payload target check s.stack k t rest := by
  obtain ⟨n, m, hrun, hlatched⟩ := startFrame_run .r94 hk ha
  have hnext : unwind (.r94 :: s.stack) (.ok (.crc (k.value s.cfg))) m =
      frameSent s.stack m.reg.ackb m := unwind_running rfl
  exact ⟨n, _, _, hnext ▸ hrun, hlatched _ _⟩

end

section
variable {s w : State} {payload : List Byte} {target : RecvTarget} {check : Bool} {callers : List Ret}
  {k : CrcReads} {t : Nat} {x : ExReads} {rest : List Answer}

/-- The exchange of a standard frame up to its classification (42_executor R161 to R172). -/
theorem FrameLatched.exchange
    (h : FrameLatched s w payload target check callers k t
      (exchangeAnswers s.cfg s.cfg.cmdTransceive (k.frame s.cfg payload) x ++ rest))
    (hd : x.Completes s.cfg (transceiveFlags s.cfg)) (htarget : target ≠ .absent)
    (hf : x.Fits s.cfg (recvBytes w).length) :
    ∃ n m, Reaches n w (settle (exClassify m)) ∧ ExchangeRun w m x rest ∧
      (errFlags m.cfg m.reg.errsnap).collision = false ∧
      m.log = exchangeEvents s.cfg s.cfg.cmdTransceive (k.frame s.cfg payload) 0 0 x m.env.now ++
        crcEvents s.cfg payload k t ++ s.log ∧
      m.chip = chipAfter s.cfg s.chip
        (exchangeEvents s.cfg s.cfg.cmdTransceive (k.frame s.cfg payload) 0 0 x m.env.now ++
          crcEvents s.cfg payload k t) := by
  obtain ⟨hpoll, hproto, hcoll⟩ := hd
  have hcfg := h.cfg
  have harg := h.arg
  obtain ⟨m, hrun, hm⟩ := exchange_run (x := x) (rest := rest) h.seq (by rw [harg]; exact hpoll)
    (by rw [h.recvTarget]; exact htarget) (by rw [hcfg]; exact hproto) (by rw [hcfg]; exact hf)
    (by rw [h.answers, hcfg, harg, h.txb]; rfl)
  have hlog := hm.log
  have hchip := hm.chip
  rw [hcfg, harg, h.txb, h.log, ← List.append_assoc] at hlog
  rw [hcfg, harg, h.txb, h.chip, ← chipAfter_append] at hchip
  exact ⟨_, m, hrun, hm, by rw [hm.cfg, hm.errsnap, hcfg]; exact hcoll, hlog, hchip⟩

end

end Sys2Proof.Machine
end

section
/-! READ: the frame with its CRC, the answer into the host's buffer, its CRC checked (44_session R247). -/

namespace Sys2Proof.Machine

/-- The answer to an exchange into the host's buffer `out` is `data` with its CRC: the nested computation
finds it right, and the exchange ends with `Ok` (42_executor R173 to R176). -/
theorem HostRun.checked {s m : State} {events : List Event} {x : ExReads} {k : CrcReads}
    {out data : List Byte} {rest : List Answer}
    (h : HostRun s m events (crcAnswers s.cfg data k ++ rest))
    (hans : Answered true x (overlay out x.bytes) m)
    (hcoll : (errFlags m.cfg m.reg.errsnap).collision = false) (hfit : x.bytes.length ≤ out.length)
    (hbytes : x.bytes = k.frame s.cfg data) (hwhole : rxLastCount s.cfg x.control = 0)
    (hk : k.Completes s.cfg) :
    ∃ n q, Reaches n (settle (exClassify m))
        (deliver (.ok (.received x.bytes.length (overlay out x.bytes) 0)) q) ∧
      HostRun s q (crcEvents s.cfg data k q.env.now ++ events) rest ∧ q.host = m.host := by
  have hrxlast : m.reg.rxlast = 0 := by rw [hans.rxlast, h.cfg, hwhole]
  have hn : 2 ≤ m.reg.n := by rw [hans.n, hbytes, frame_length]; omega
  obtain ⟨q, hcrc, hq, hhost⟩ := h.crc hk
  rw [hbytes] at hfit
  rw [hans.n, hans.recvBytes, hrxlast, hbytes, crcVerdict_frame hfit, ← hbytes] at hcrc
  rw [exClassify_checked hcoll hans.checkCrc hans.present hn hrxlast, hans.recvBytes, hans.n, hbytes,
    take_overlay_frame hfit, ← hbytes]
  exact ⟨_, q, hcrc, hq, hhost⟩

/-- The state in which an operation that reads into the host's buffer `out` has been issued
(44_session R247). -/
def lentAt (op : Byte) (ports : Args) (out : List Byte) (s : State) : State :=
  { s.latched op ports with host := { s.host with result := none, buf := out } }

/-- The exchange of a frame into that buffer, up to its classification (42_executor R160 to R172). -/
theorem FrameLatched.answered {s w : State} {op : Byte} {ports : Args} {out payload : List Byte}
    {k : CrcReads} {t : Nat} {x : ExReads} {rest : List Answer}
    (h : FrameLatched (lentAt op ports out s) w payload .host true [] k t
      (exchangeAnswers s.cfg s.cfg.cmdTransceive (k.frame s.cfg payload) x ++ rest))
    (hop : op ∉ opsReturningNothing) (hd : x.Completes s.cfg (transceiveFlags s.cfg))
    (hf : x.Fits s.cfg out.length) :
    ∃ n m, Reaches n w (settle (exClassify m)) ∧
      HostRun s m
        (exchangeEvents s.cfg s.cfg.cmdTransceive (k.frame s.cfg payload) 0 0 x m.env.now ++
          crcEvents s.cfg payload k t) rest ∧
      Answered true x (overlay out x.bytes) m ∧ (errFlags m.cfg m.reg.errsnap).collision = false := by
  have hhost : w.host = { s.host with result := none, buf := out } := h.host
  have hlent : recvBytes w = out := by rw [recvBytes_of_host h.recvTarget, hhost]
  have halign : w.arg.rxAlign = 0 := congrArg Args.rxAlign h.arg
  have hcfg : w.cfg = s.cfg := h.cfg
  obtain ⟨n, m, hrun, hm, hcoll, hlog, hchip⟩ := h.exchange hd nofun (hlent ▸ hf)
  have htarget : m.recvTarget = .host := hm.recvTarget.trans h.recvTarget
  have hgot : recvBytes m = overlay out x.bytes := by
    rw [hm.recvBytes (h.recvTarget ▸ nofun), halign, hlent, receivedInto_zero]
  exact ⟨n, m, hrun,
    { cfg := hm.cfg.trans hcfg
      op := hm.op ▸ h.op ▸ hop
      stack := hm.stack.trans h.stack
      port := by rw [hm.port, hhost]
      log := hlog, chip := hchip, answers := hm.answers },
    { checkCrc := congrArg Args.checkCrc (hm.arg.trans h.arg)
      recvTarget := htarget
      errsnap := hm.errsnap
      n := hm.n
      rxlast := by rw [hm.rxlast, hm.cfg]
      outputs := ⟨hm.recvLen.trans (if_pos h.recvTarget),
        by rw [hm.rxLastBits, if_pos h.recvTarget, hm.cfg]⟩
      buf := by rw [← recvBytes_of_host htarget, hgot] }, hcoll⟩

/-- READ is issued by `read_block`, and on its own into a buffer of zeros (log 8, log 17). -/
theorem read_issues {s : State} {i : Instr} {addr : Byte} {out : List Byte} (hs : s.seq = .idle)
    (hi : (i = .readBlock addr out ∧ 18 ≤ out.length) ∨
      (i = .mfRead addr ∧ out = List.replicate 18 0)) :
    ∃ op ports, op ∉ opsReturningNothing ∧
      exec i s = .next (settle (startFrame .r94 [piccRead, addr] .host true
        (lentAt op ports out s))) := by
  rcases hi with ⟨rfl, hlen⟩ | ⟨rfl, rfl⟩
  · refine ⟨0x30#8, { addr := addr, out := out }, by decide, ?_⟩
    rw [exec, execReadBlock, accept_idle hs, if_neg (Nat.not_lt.mpr hlen)]
    rfl
  · refine ⟨0, { }, by decide, ?_⟩
    rw [exec, execMfRead, accept_idle hs]
    rfl

/-- Settles O57: the CRC of READ, the exchange, and the nested CRC over all but the last two bytes of its
answer. -/
theorem readBlockCompletes : Obligations.ReadBlockCompletes := by
  unfold Obligations.ReadBlockCompletes
  rintro s i addr out payload data k₁ k₂ x rest hs hi rfl hk₁ hd hf hbytes hwhole hk₂ ha
  obtain ⟨op, ports, hop, hexec⟩ := read_issues hs hi
  rw [checkedAnswers, List.append_assoc] at ha
  obtain ⟨n₁, t₁, w, hcrc, hw⟩ := frame_latched (s := lentAt op ports out s) hk₁ ha
  obtain ⟨n₂, m, hrun, hm, hans, hcoll⟩ := hw.answered hop hd hf
  obtain ⟨n₃, q, hcheck, hq, hhost⟩ := hm.checked hans hcoll hf.2 hbytes hwhole hk₂
  obtain ⟨hlen, hlast⟩ := hans.outputs
  have hbuf := hans.buf
  rw [hm.cfg, hwhole] at hlast
  rw [← hhost] at hlen hlast hbuf
  have hends := hq.ends (.ok (.received x.bytes.length (overlay out x.bytes) 0))
  rw [← List.append_assoc] at hends
  exact ⟨_, t₁, m.env.now, _, ⟨_, hexec, reaches_trans hcrc (reaches_trans hrun hcheck)⟩, hends,
    ⟨hlen, hlast⟩, hbuf⟩

end Sys2Proof.Machine
end

section
/-! `mifare_transceive` as an operation of its own or as a phase of a block write: the frame, its exchange
into the one-byte ACK buffer, and what the answer comes to (44_session R250 to R252). -/

namespace Sys2Proof.Machine

/-! ## The answer -/

/-- What the exchange of `mifare_transceive` comes to by the bytes received and the valid bits of the last
one (44_session R251). -/
def ackResult (bytes : List Byte) (rxlast : Nat) : Res :=
  if bytes.length ≠ 1 ∨ rxlast ≠ 4 then .err .protocolError
  else if bytes ≠ [piccAck] then .err .nack else .ok .nothing

theorem ackOrNak_eq (s : State) :
    ackOrNak s =
      .done
        (if s.reg.n ≠ 1 ∨ s.reg.rxlast ≠ 4 then .err .protocolError
         else if s.reg.ackb.getD 0 0 ≠ piccAck then .err .nack else .ok .nothing) s := by
  rw [ackOrNak]
  split
  · rfl
  · split <;> rfl

/-- With the answer laid into ACKB the test of R251 is one on the bytes received. -/
theorem ackOrNak_received {s : State} {bytes : List Byte} {rxlast : Nat} (hn : s.reg.n = bytes.length)
    (hlast : s.reg.rxlast = rxlast) (hackb : s.reg.ackb = overlay [0] bytes) :
    ackOrNak s = .done (ackResult bytes rxlast) s := by
  rw [ackOrNak_eq, ackResult, hn, hlast, hackb]
  by_cases hshape : bytes.length ≠ 1 ∨ rxlast ≠ 4
  case pos => rw [if_pos hshape, if_pos hshape]
  case neg =>
    obtain ⟨b, rfl⟩ := List.length_eq_one_iff.mp (not_not.mp (not_or.mp hshape).1)
    have hiff : (overlay [0] [b]).getD 0 0 ≠ piccAck ↔ [b] ≠ [piccAck] := by simp [overlay]
    rw [if_neg hshape, if_neg hshape]
    simp only [hiff]

theorem portResult_ackResult (op : Byte) (bytes : List Byte) (rxlast : Nat) :
    portResult op (ackResult bytes rxlast) = ackResult bytes rxlast := by
  rw [ackResult]
  split
  · exact portResult_err _ _
  · split
    · exact portResult_err _ _
    · exact portResult_nothing op

/-- An acknowledgement is one byte of four bits, 0x0A (44_session R251). -/
theorem ackResult_acknowledged : ackResult [piccAck] 4 = .ok .nothing := rfl

theorem ackResult_refused {bytes : List Byte} {rxlast : Nat} (h : ¬(bytes = [piccAck] ∧ rxlast = 4)) :
    ackResult bytes rxlast =
      if bytes.length ≠ 1 ∨ rxlast ≠ 4 then .err .protocolError else .err .nack := by
  rw [ackResult]
  by_cases hshape : bytes.length ≠ 1 ∨ rxlast ≠ 4
  case pos => rw [if_pos hshape, if_pos hshape]
  case neg =>
    have hbytes : bytes ≠ [piccAck] := fun hb => h ⟨hb, not_not.mp (not_or.mp hshape).2⟩
    rw [if_neg hshape, if_neg hshape, if_pos hbytes]

/-- The one error `mifare_transceive` turns into a success, when it is told to (44_session R252). -/
def timeoutResult (ignoreTimeout : Bool) : Res := if ignoreTimeout then .ok .nothing else .err .timeout

theorem mifareDone_timeout (s : State) :
    mifareDone (.err .timeout) s = .done (timeoutResult s.arg.ignoreTimeout) s := by
  rw [mifareDone, timeoutResult]
  split <;> rfl

theorem portResult_timeoutResult (op : Byte) (ign : Bool) :
    portResult op (timeoutResult ign) = timeoutResult ign := by
  cases ign
  · exact portResult_err _ _
  · exact portResult_nothing op

/-! ## The exchange -/

/-- `mifare_transceive` has latched its arguments (44_session R250). -/
def mifareOf (payload : List Byte) (ign : Bool) (s : State) : State :=
  { s with arg := { s.arg with payload := payload, ignoreTimeout := ign } }

/-- The state in which `mifare_transceive` has been entered: its frame is begun (44_session R250). -/
def mifareAt (payload : List Byte) (ign : Bool) (s : State) : State :=
  settle (startFrame .r250 payload .ackb false (mifareOf payload ign s))

theorem enterMifare_eq (payload : List Byte) (ign : Bool) (s : State) :
    enterMifare payload ign s = .running (mifareAt payload ign s) := rfl

theorem recvBytes_of_ackb {s : State} (h : s.recvTarget = .ackb) : recvBytes s = s.reg.ackb := by
  rw [recvBytes, h]

/-- The answer of an exchange into the cleared ACK buffer is laid over its one byte (42_executor R171). -/
theorem ExchangeRun.ackb {w m : State} {x : ExReads} {rest : List Answer} (h : ExchangeRun w m x rest)
    (htarget : w.recvTarget = .ackb) (hcleared : w.reg.ackb = [0]) (halign : w.arg.rxAlign = 0) :
    m.reg.ackb = overlay [0] x.bytes := by
  have hrecv := h.recvBytes (htarget ▸ nofun)
  rwa [recvBytes_of_ackb (h.recvTarget.trans htarget), recvBytes_of_ackb htarget, hcleared, halign,
    receivedInto_zero] at hrecv

section
variable {s : State} {payload : List Byte} {ign : Bool} {k : CrcReads} {x : ExReads} {rest : List Answer}
  (hk : k.Completes s.cfg)
include hk

/-- The CRC of the frame, up to the exchange into the cleared ACK buffer (44_session R250). -/
theorem mifare_latched (ha : s.env.answers = crcAnswers s.cfg payload k ++ rest) :
    ∃ n t w, Reaches n (mifareAt payload ign s) w ∧
      FrameLatched (mifareOf payload ign s) w payload .ackb false (.r251 :: s.stack) k t rest ∧
      w.reg.ackb = [0] := by
  obtain ⟨n, m, hrun, hlatched⟩ := startFrame_run (s := mifareOf payload ign s) .r250 hk ha
  have hnext : unwind (.r250 :: s.stack) (.ok (.crc (k.value s.cfg))) m =
      frameSent (.r251 :: s.stack) [0] m := unwind_running rfl
  exact ⟨n, _, _, hnext ▸ hrun, hlatched _ _, rfl⟩

/-- `mifare_transceive` from its entry to its result, when the exchange is answered (44_session R250,
R251). -/
theorem mifare_run (hd : x.Completes s.cfg (transceiveFlags s.cfg)) (hf : x.Fits s.cfg 1)
    (ha : s.env.answers = crcAnswers s.cfg payload k ++
      (exchangeAnswers s.cfg s.cfg.cmdTransceive (k.frame s.cfg payload) x ++ rest)) :
    ∃ n t m, Reaches n (mifareAt payload ign s)
        (unwind s.stack (ackResult x.bytes (rxLastCount s.cfg x.control)) m) ∧
      Progress s m
        (exchangeEvents s.cfg s.cfg.cmdTransceive (k.frame s.cfg payload) 0 0 x m.env.now ++
          crcEvents s.cfg payload k t) rest ∧
      m.arg.data = s.arg.data := by
  obtain ⟨n, t, w, hcrc, hw, hackb⟩ := mifare_latched (ign := ign) hk ha
  have hcfg : w.cfg = s.cfg := hw.cfg
  have hbuf : recvBytes w = [0] := (recvBytes_of_ackb hw.recvTarget).trans hackb
  obtain ⟨n', m, hrun, hm, hcoll, hlog, hchip⟩ := hw.exchange hd nofun (hbuf ▸ hf)
  have hverdict : resume .r251 (.ok (.received m.reg.n (recvBytes m) m.reg.rxlast))
      { m with stack := s.stack } = .done _ { m with stack := s.stack } :=
    ackOrNak_received hm.n (hcfg ▸ hm.rxlast)
      (hm.ackb hw.recvTarget hackb (congrArg Args.rxAlign hw.arg))
  rw [exClassify_unchecked hcoll (.inl (congrArg Args.checkCrc (hm.arg.trans hw.arg))), settle_done,
    hm.stack, hw.stack, unwind_done hverdict] at hrun
  have hprogress := hw.toProgress.trans (hm.progress (hw.recvTarget ▸ nofun))
  have hdata : m.arg.data = s.arg.data := by
    rw [hm.arg, hw.arg]
    rfl
  exact ⟨_, t, _, reaches_trans hcrc hrun, { hprogress with log := hlog, chip := hchip }, hdata⟩

/-- `mifare_transceive` whose exchange the chip's timer flag ends (44_session R252). -/
theorem mifare_timedOut (hd : anyBit x.poll (transceiveFlags s.cfg) = false)
    (htimer : anyBit x.poll s.cfg.irqTimer = true)
    (ha : s.env.answers = crcAnswers s.cfg payload k ++
      (sendAnswers s.cfg s.cfg.cmdTransceive (k.frame s.cfg payload) x ++ rest)) :
    ∃ n t m, Reaches n (mifareAt payload ign s) (unwind s.stack (timeoutResult ign) m) ∧
      Progress s m
        (sendEvents s.cfg s.cfg.cmdTransceive (k.frame s.cfg payload) 0 0 x m.env.now ++
          crcEvents s.cfg payload k t) rest := by
  obtain ⟨n, t, w, hcrc, hw, -⟩ := mifare_latched (ign := ign) hk ha
  have hcfg : w.cfg = s.cfg := hw.cfg
  obtain ⟨n', m, hrun, hm⟩ := timedOut_run hw.seq (by rw [hw.arg, hcfg]; rfl)
    (by rw [hw.arg]; exact hd) (by rw [hcfg]; exact htimer)
    (by rw [hw.answers, hcfg, hw.arg, hw.txb]; rfl)
  have hverdict : resume .r251 (.err .timeout) { m with stack := s.stack } =
      .done (timeoutResult ign) { m with stack := s.stack } := by
    have hign : m.arg.ignoreTimeout = ign := congrArg Args.ignoreTimeout (hm.arg.trans hw.arg)
    rw [← hign]
    exact mifareDone_timeout _
  rw [hw.stack, unwind_done hverdict] at hrun
  have hprogress := hw.toProgress.trans hm.toProgress
  rw [hcfg, hw.arg, hw.txb] at hprogress
  exact ⟨_, t, _, reaches_trans hcrc hrun, { hprogress with }⟩

end

/-! ## As an operation of its own -/

/-- The instruction enters `mifare_transceive` with nothing above it. -/
def IssuesMifare (i : Instr) (s : State) (payload : List Byte) (ign : Bool) : Prop :=
  ∃ op ports, exec i s = .next (mifareAt payload ign (s.latched op ports))

section
variable {s : State} {payload data : List Byte} {page : Byte}

theorem mifareTransceive_issues (hs : s.seq = .idle) (ign : Bool) :
    IssuesMifare (.mifareTransceive payload ign) s payload ign :=
  ⟨0x33#8, _, by rw [exec, execMifareTransceive, accept_idle hs, enterMifare_eq, land_running]⟩

theorem writePage_issues (hs : s.seq = .idle) (hdata : data.length = 4) :
    IssuesMifare (.writePage page data) s (piccWriteUl :: page :: data) false :=
  ⟨0x32#8, _, by
    rw [exec, execWritePage, accept_idle hs, if_neg (not_not.mpr hdata), enterMifare_eq, land_running]⟩

theorem mfWriteUl_issues (hs : s.seq = .idle) :
    IssuesMifare (.mfWriteUl page data) s (piccWriteUl :: page :: data) false :=
  ⟨0, { }, by rw [exec, execMfWriteUl, accept_idle hs, enterMifare_eq, land_running]⟩

end

/-- Settles O58: each of the three runs `mifare_transceive`, and the port shows its result as it is. -/
theorem ackExchangeDecides : Obligations.AckExchangeDecides := by
  unfold Obligations.AckExchangeDecides
  intro s i payload k x rest hs hi hk hd hf ha
  obtain ⟨ign, op, ports, hexec⟩ : ∃ ign, IssuesMifare i s payload ign := by
    rcases hi with ⟨ign, rfl⟩ | ⟨page, data, rfl, hdata, rfl | rfl⟩
    · exact ⟨ign, mifareTransceive_issues hs ign⟩
    · exact ⟨false, writePage_issues hs hdata⟩
    · exact ⟨false, mfWriteUl_issues hs⟩
  obtain ⟨n, t₁, m, hrun, hm, -⟩ := mifare_run (s := s.latched op ports) (ign := ign) hk hd hf ha
  exact ⟨n, t₁, _, ⟨_, hexec, hrun⟩, hm.ends (portResult_ackResult _ _ _)⟩

/-- The deadline test of the exchange ends `mifare_transceive` as the timer flag does (44_session R252,
60_exceptions R287). -/
theorem mifare_overdue {s : State} (hs : s.seq = .r168n) (hstack : s.stack = [.r251])
    (hlate : s.cfg.tExecMs ≤ s.env.sample - s.reg.t0) :
    ∃ t, step s = .next t ∧ AtRest t ∧
      t.host.result = some (timeoutResult s.arg.ignoreTimeout) ∧
      t.log = .now s.env.sample :: s.log ∧ t.chip = s.chip ∧ HostKept s t := by
  have hlabel : stepLabel s = exPollTime s := by simp only [stepLabel, hs]
  obtain ⟨t, hstep, hlog, hchip, -, htimeout⟩ := step_pollTime (hs ▸ nofun) hlabel
  have hended : t = deliver (timeoutResult s.arg.ignoreTimeout) { s.afterNow with stack := [] } := by
    rw [htimeout hlate, hstack]
    exact unwind_done (mifareDone_timeout { s.afterNow with stack := [] })
  have hresult : t.host.result = some (timeoutResult s.arg.ignoreTimeout) := by
    rw [hended]
    exact congrArg some (portResult_timeoutResult _ _)
  exact ⟨t, hstep, hended ▸ deliver_atRest _ _, hresult, hlog, hchip,
    hended ▸ deliver_hostKept _ rfl rfl rfl⟩

/-- Settles O59: the timer flag and the deadline raise the one `Timeout` that the rule of the exchange
takes; that of the CRC computation goes to another rule. -/
theorem ignoreTimeout : Obligations.IgnoreTimeout := by
  unfold Obligations.IgnoreTimeout
  intro s payload ign k x rest hs hk hd htimer ha
  refine ⟨?run, fun _ => rfl, mifareDone_timeout, fun u hu hstack hlate => mifare_overdue hu hstack hlate⟩
  case run =>
    obtain ⟨op, ports, hexec⟩ := mifareTransceive_issues (payload := payload) hs ign
    obtain ⟨n, t₁, m, hrun, hm⟩ :=
      mifare_timedOut (s := s.latched op ports) (ign := ign) hk hd htimer ha
    exact ⟨n, t₁, _, ⟨_, hexec, hrun⟩, hm.ends (portResult_timeoutResult _ _)⟩

end Sys2Proof.Machine
end

section
/-! `write_block`, and MF_WRITE on its own: two phases, each a `mifare_transceive` (44_session R248,
R254). -/

namespace Sys2Proof.Machine

/-- Phase 1 of a block write of `data`, begun in `s` (44_session R248). -/
def writeOf (data : List Byte) (s : State) : State :=
  push .r248 { s with arg := { s.arg with data := data } }

/-- A block write is issued by `write_block`, and by its frame on its own (log 8, log 10). -/
theorem writeBlock_issues {s : State} {i : Instr} {addr : Byte} {data : List Byte} (hs : s.seq = .idle)
    (hi : i = .writeBlock addr data ∨ i = .mfWrite addr data) (hdata : data.length = 16) :
    ∃ op ports, exec i s =
      .next (mifareAt [piccWrite, addr] false (writeOf data (s.latched op ports))) := by
  rcases hi with rfl | rfl
  · refine ⟨0x31#8, { addr := addr, data := data }, ?_⟩
    rw [exec, execWriteBlock, accept_idle hs, if_neg (not_not.mpr hdata)]
    rfl
  · refine ⟨0, { }, ?_⟩
    rw [exec, execMfWrite, accept_idle hs]
    rfl

/-- The first phase of a block write, up to the rule that takes its result (44_session R248). -/
theorem firstPhase_run {s : State} {i : Instr} {addr : Byte} {data : List Byte} {k : CrcReads}
    {x : ExReads} {rest : List Answer} (hs : s.seq = .idle)
    (hi : i = .writeBlock addr data ∨ i = .mfWrite addr data) (hdata : data.length = 16)
    (hk : k.Completes s.cfg) (hd : x.Completes s.cfg (transceiveFlags s.cfg)) (hf : x.Fits s.cfg 1)
    (ha : s.env.answers = crcAnswers s.cfg [piccWrite, addr] k ++
      (exchangeAnswers s.cfg s.cfg.cmdTransceive (k.frame s.cfg [piccWrite, addr]) x ++ rest)) :
    ∃ op ports n t m,
      RunsTo i s n (unwind [.r248] (ackResult x.bytes (rxLastCount s.cfg x.control)) m) ∧
      Progress (s.latched op ports) { m with stack := [] }
        (exchangeEvents s.cfg s.cfg.cmdTransceive (k.frame s.cfg [piccWrite, addr]) 0 0 x m.env.now ++
          crcEvents s.cfg [piccWrite, addr] k t) rest ∧
      m.arg.data = data := by
  obtain ⟨op, ports, hexec⟩ := writeBlock_issues hs hi hdata
  obtain ⟨n, t, m, hrun, hm, hmdata⟩ :=
    mifare_run (s := writeOf data (s.latched op ports)) hk hd hf ha
  exact ⟨op, ports, n, t, m, ⟨_, hexec, hrun⟩, { hm with }, hmdata⟩

/-- An acknowledged first phase begins the second, which sends the data (44_session R248). -/
theorem unwind_acknowledged (m : State) :
    unwind [.r248] (.ok .nothing) m = mifareAt m.arg.data false { m with stack := [] } :=
  unwind_running rfl

/-- A first phase that is answered otherwise ends the block write with its error (44_session R254). -/
theorem unwind_refused {bytes : List Byte} {rxlast : Nat} (h : ¬(bytes = [piccAck] ∧ rxlast = 4))
    (m : State) :
    unwind [.r248] (ackResult bytes rxlast) m =
      deliver (ackResult bytes rxlast) { m with stack := [] } := by
  rw [ackResult_refused h]
  split <;> exact unwind_done rfl

/-- Settles O60: phase 1 as a run of `mifare_transceive`, and the rule that takes its result. -/
theorem writeBlockCompletes : Obligations.WriteBlockCompletes := by
  unfold Obligations.WriteBlockCompletes
  refine ⟨?acknowledged, ?refused, fun u => ⟨fun _ => ackOrNak_eq u, fun _ => rfl⟩⟩
  case acknowledged =>
    rintro s i addr first data k₁ k₂ x₁ x₂ rest hs hi hdata rfl hk₁ hd₁ hf₁ hbytes hlast hk₂ hd₂ hf₂
      ha
    obtain ⟨op, ports, n₁, t₁, m, ⟨u, hexec, hfirst⟩, hm, rfl⟩ :=
      firstPhase_run hs hi hdata hk₁ hd₁ hf₁ ha
    have hcfg : m.cfg = s.cfg := hm.cfg
    rw [hbytes, hlast, ackResult_acknowledged, unwind_acknowledged] at hfirst
    obtain ⟨n₂, t₃, m', hsecond, hm', -⟩ :=
      mifare_run (s := { m with stack := [] }) (x := x₂) (rest := rest) (hcfg ▸ hk₂) (hcfg ▸ hd₂)
        (hcfg ▸ hf₂) (by rw [hcfg]; exact hm.answers)
    have htotal := hm.trans hm'
    rw [hcfg, List.append_assoc] at htotal
    have hresult : ackResult x₂.bytes (rxLastCount m.cfg x₂.control) =
        ackResult x₂.bytes (rxLastCount s.cfg x₂.control) := by rw [hcfg]
    rw [hresult] at hsecond
    exact ⟨_, t₁, m.env.now, t₃, _, ⟨u, hexec, reaches_trans hfirst hsecond⟩,
      htotal.ends (portResult_ackResult _ _ _)⟩
  case refused =>
    rintro s i addr first data k x rest hs hi hdata rfl hk hd hf hrefused ha
    obtain ⟨op, ports, n, t₁, m, hrun, hm, -⟩ := firstPhase_run hs hi hdata hk hd hf ha
    rw [unwind_refused hrefused] at hrun
    rw [← ackResult_refused hrefused]
    exact ⟨n, t₁, _, hrun, hm.ends (portResult_ackResult _ _ _)⟩

end Sys2Proof.Machine
end

section
/-! The exceptions that every operation shares: acceptance at `IDLE` only (60_exceptions R291), samples of
the time port that never decrease (R285), and errors passed to the result port (R279 to R281). -/

namespace Sys2Proof.Machine

/-! ## Acceptance -/

/-- Issued while an operation is in progress, an instruction has no step (log 12). -/
theorem exec_busy {s : State} (hb : s.seq ≠ .idle) (i : Instr) :
    exec i s = .fault .interleavedOperation := by
  obtain ⟨op, ports, start, hexec, -⟩ := exec_accept i
  rw [hexec, accept_busy hb]

/-- The transaction or time sample of a step takes nothing from the command port. -/
theorem Middle.port {s m : State} (hm : Middle s m) : m.host.port = s.host.port := by
  cases hm <;> rfl

theorem Middle.op {s m : State} (hm : Middle s m) : m.op = s.op := by
  cases hm <;> rfl

/-- The operation code changes only where the operation ends. -/
theorem Settled.op_of_busy {s t : State} (h : Settled s t) (hb : t.seq ≠ .idle) : t.op = s.op :=
  h.op.resolve_right fun hrest => hb hrest.seq

/-- Settles O13: an instruction is accepted at `IDLE` only, and the event of a busy step and the pure
computation behind it leave the command port alone. -/
theorem acceptsOnlyAtIdle : Obligations.AcceptsOnlyAtIdle := by
  unfold Obligations.AcceptsOnlyAtIdle
  intro s hb
  have hstep := step_busy hb
  obtain ⟨m, hm, hmt⟩ := step_busy_cases hb hstep
  exact ⟨exec_busy hb, _, hstep, hmt.port.trans hm.port, fun ht => (hmt.op_of_busy ht).trans hm.op⟩

/-- Settles O12: the step takes the decoded offer from the port and issues it. -/
theorem stepRunsDecoded : Obligations.StepRunsDecoded := by
  unfold Obligations.StepRunsDecoded
  intro s o rest i hs hport hi
  exact step_decoded hs hport hi

/-! ## Time -/

/-- Settles O21: only a time sample moves the clock, to a sample not before the last one, and only a
time sample shows one in the history. -/
theorem timeNeverDecreases : Obligations.TimeNeverDecreases := by
  unfold Obligations.TimeNeverDecreases
  intro s t h
  cases step_ports h with
  | silent _ same =>
    refine ⟨by rw [same.env], fun n hn => ?_⟩
    exact absurd (hn.symm.trans same.log) (List.cons_ne_self _ _)
  | tx x same =>
    refine ⟨by rw [same.env, afterTx_env, Env.afterAnswer_now], fun n hn => ?_⟩
    rw [same.log] at hn
    cases hn
  | now same =>
    have hnow : t.env.now = s.env.sample := by rw [same.env, afterNow_env, Env.afterSample_now]
    refine ⟨hnow ▸ s.env.now_le_sample, fun n hn => ?_⟩
    rw [same.log] at hn
    cases hn
    exact hnow.symm

/-! ## Errors -/

/-- A return stack without the rules that catch `e` passes it on at every label. -/
theorem passes_of_notMem {e : ExecError} {l : List Ret} (hreqa : .r193 ∉ l)
    (hcollision : e = .collision → .r194 ∉ l ∧ .r206 ∉ l)
    (htimeout : e = .timeout → .r224 ∉ l ∧ .r251 ∉ l) : ∀ r ∈ l, Passes e r :=
  fun _ hr =>
    { reqa := ne_of_mem_of_not_mem hr hreqa
      collision := fun he => (hcollision he).imp (ne_of_mem_of_not_mem hr) (ne_of_mem_of_not_mem hr)
      timeout := fun he => (htimeout he).imp (ne_of_mem_of_not_mem hr) (ne_of_mem_of_not_mem hr) }

/-- Settles O26: every label of the stack passes the error on, so it is delivered as it is. -/
theorem errorsPropagate : Obligations.ErrorsPropagate := by
  unfold Obligations.ErrorsPropagate
  intro l e s hreqa hcollision htimeout
  rw [unwind_passes (passes_of_notMem hreqa hcollision htimeout)]
  exact ⟨congrArg some (portResult_err s.op e), deliver_atRest _ _, deliver_log _ _,
    deliver_chip _ _, deliver_env _ _, deliver_hostKept _ rfl rfl rfl⟩

end Sys2Proof.Machine
end

section
/-! Reset (70_reset R300): every operation is accepted, and the invariant holds; and the configuration
record, which no step changes (R302). -/

namespace Sys2Proof.Machine

/-! ## The configuration record -/

/-- What a step does at the ports leaves the configuration record alone. -/
theorem PortStep.cfg {s t : State} (h : PortStep s t) : t.cfg = s.cfg := by
  cases h with
  | silent _ same => exact same.cfg
  | tx x same => exact same.cfg.trans (afterTx_cfg s x)
  | now same => exact same.cfg.trans (afterNow_cfg s)

/-- Settles O19: a step does nothing, one transaction or one time sample at the ports, and none of them
changes the record. -/
theorem configFixed : Obligations.ConfigFixed := by
  unfold Obligations.ConfigFixed
  intro s t h
  exact (step_ports h).cfg

/-! ## Reset -/

/-- At `IDLE` every instruction has its step. -/
theorem exec_atIdle {s : State} (hs : s.seq = .idle) (i : Instr) : ∃ t, exec i s = .next t := by
  obtain ⟨op, ports, start, hexec, -⟩ := exec_accept i
  exact ⟨_, (hexec s).trans (accept_idle hs)⟩

/-- Settles O16: reset leaves `SEQ` at `IDLE`, where every instruction has its step. -/
theorem resetReady : Obligations.ResetReady := by
  unfold Obligations.ResetReady
  exact ⟨rfl, rfl, rfl, rfl, exec_atIdle rfl⟩

/-- The registers of a machine at rest are in range when the record is canonical and the configuration
lawful. -/
theorem AtRest.regsOk {s : State} (h : AtRest s) (memory : Memory.wf s.chip.written)
    (fields : s.cfg.FieldsFit) : RegsOk s := by
  refine .of_parts memory ?work ?select fields
  case work =>
    rw [h.reg]
    exact ⟨rfl, Nat.zero_le _, Nat.zero_le _, Nat.zero_le _⟩
  case select =>
    rw [h.sel]
    exact ⟨rfl, rfl, rfl, rfl, Nat.zero_le _, Nat.zero_le _, Nat.zero_le _, Nat.zero_le _⟩

/-- A machine at rest meets the invariant when its registers are in range: what the invariant says of an
operation in progress does not apply. -/
theorem AtRest.inv {s : State} (h : AtRest s) (regs : RegsOk s) : StateInv s := by
  have hexchange : ¬ InExchange s := by simp [InExchange, isExchange, h.seq, h.stack]
  exact
    { regs
      chain := by simp [h.seq, h.stack, callersAt]
      selState := by rw [h.seq, h.stack, h.sel]; rfl
      rest := fun _ => h
      busy := fun hb => absurd h.seq hb
      framing := fun hx => absurd hx hexchange
      command := fun hx => absurd hx hexchange
      primitive := fun hp => by simp [h.seq] at hp
      session := fun hp => by simp [h.seq] at hp }

/-- Reset leaves the machine at rest (10_state R46, 70_reset R300). -/
theorem reset_atRest : AtRest State.reset := ⟨rfl, rfl, rfl, rfl, rfl, rfl, rfl, rfl⟩

/-- Settles O17: the state after reset is at rest, with an empty record and the default configuration. -/
theorem resetInv : Obligations.ResetInv := by
  unfold Obligations.ResetInv
  have hfields : State.reset.cfg.FieldsFit := by decide
  exact reset_atRest.inv (reset_atRest.regsOk reset_memory_wf hfields)

end Sys2Proof.Machine
end

section
/-! NVB as a formula (30_encoding R96), and what stops a step (R109, log 22). -/

namespace Sys2Proof

/-- Settles O6: the formula is `nvbOf_toNat`, the reading back `kbOfNvb_eq_some_iff`; the values of the
table are evaluated. -/
theorem nvbFormula : Obligations.NvbFormula := by
  unfold Obligations.NvbFormula
  constructor
  case left => exact fun kb hmax => ⟨nvbOf_toNat hmax, kbOfNvb_eq_some_iff.2 ⟨hmax, rfl⟩⟩
  case right => decide

end Sys2Proof

namespace Sys2Proof.Machine

/-- At `IDLE` with nothing offered nothing happens (log 7). -/
theorem step_noOffer {s : State} (hs : s.seq = .idle) (hport : s.host.port = []) :
    step s = .next s := by
  simp [step, hs, hport]

/-- An offer rejected for its host code is taken from the port and refused in the same step
(30_encoding R83). -/
theorem step_hostCode {s : State} {o : Offer} {rest : List Offer} {code : Byte} (hs : s.seq = .idle)
    (hport : s.host.port = o :: rest) (hreject : decode s.cfg o = .reject (.hostCode code)) :
    step s = .next (refuseCode code { s with host := { s.host with port := rest } }) := by
  simp [step, hs, hport, takeOffer, hreject]

/-- An offer rejected for any other reason stops the step (30_encoding R109, log 22). -/
theorem step_rejected {s : State} {o : Offer} {rest : List Offer} {r : Reject} (hs : s.seq = .idle)
    (hport : s.host.port = o :: rest) (hreject : decode s.cfg o = .reject r)
    (hcode : ∀ code, r ≠ .hostCode code) : step s = .refused (.notAnEncoding r) := by
  cases r with
  | hostCode code => exact absurd rfl (hcode code)
  | chipCommand _ | tagCommand _ | frameShape _ _ => simp [step, hs, hport, takeOffer, hreject]

/-- Settles O15: a busy step, an empty port, an instruction and an unknown host code all have their next
state, so what is left is an offer rejected for another reason. -/
theorem stopsOnlyAtPort : Obligations.StopsOnlyAtPort := by
  unfold Obligations.StopsOnlyAtPort
  intro s hstops
  have hidle : s.seq = .idle := by_contra fun hb => hstops _ (step_busy hb)
  refine ⟨hidle, ?_⟩
  cases hport : s.host.port with
  | nil => exact absurd (step_noOffer hidle hport) (hstops s)
  | cons o rest =>
    cases hdecode : decode s.cfg o with
    | instr i =>
      obtain ⟨t, ht⟩ := exec_atIdle (s := { s with host := { s.host with port := rest } }) hidle i
      exact absurd ((step_decoded hidle hport hdecode).trans ht) (hstops t)
    | reject r =>
      have hcode : ∀ code, r ≠ .hostCode code := by
        rintro code rfl
        exact hstops _ (step_hostCode hidle hport hdecode)
      exact ⟨o, rest, r, rfl, hdecode, hcode, step_rejected hidle hport hdecode hcode⟩

end Sys2Proof.Machine
end
